-- ==== Sys2Proof/Word.lean ====
section
/-! DEFINITION. The bit-valued types of the codec (00_scope.md R10, R11). -/

namespace Sys2Proof

/-- A byte, 8 bits (R10). -/
abbrev Byte := BitVec 8

/-- A nibble, 4 bits (R10). -/
abbrev Nibble := BitVec 4

/-- A cable number, 0 to 15: the high nibble of a packet's first byte (R9, R83). -/
abbrev Cable := BitVec 4

end Sys2Proof
end

