-- ==== Sys2Proof/Config.lean ====
section
/-! DEFINITION. The parameters of 00_scope.md R9 and the free values the spec leaves open. -/

namespace Sys2Proof

/-- `SPP_LEN`: bytes used for status 0xF2; 2 is the default, 3 the only other admitted value (R9). -/
inductive SppLen
  | two
  | three
  deriving DecidableEq, Repr

def SppLen.toNat : SppLen → Nat
  | .two => 2
  | .three => 3

/-- `TERM_POLICY`: what a SysEx termination does without a buffer or without room (R9, R224). -/
inductive TermPolicy
  | fault
  | request
  deriving DecidableEq, Repr

/-- The parameters of R9, fixed at construction and written by no operation (10_state.md R32, R33).
`RX_BUF_SIZE` equals `MAX_XFER`, and the number of cables is fixed at 16. -/
structure Params where
  maxXfer : Nat
  qCap : Nat
  sppLen : SppLen
  termPolicy : TermPolicy
  deriving DecidableEq, Repr

/-- `RX_BUF_SIZE = MAX_XFER` (R9). -/
abbrev Params.rxBufSize (p : Params) : Nat := p.maxXfer

/-- The validation at initialisation of 70_reset_and_hazards.md R311 (1). -/
abbrev Params.Valid (p : Params) : Prop :=
  4 ≤ p.maxXfer ∧ p.maxXfer % 4 = 0 ∧ 4 ≤ p.qCap ∧ p.qCap % 4 = 0

/-- The defaults of R9. DESIGN CHOICE (notes/assumptions/4.md, unsafe): `Q_CAP` is OPEN in the spec;
64 is the value its test vectors take. -/
def Params.default : Params :=
  { maxXfer := 64, qCap := 64, sppLen := .two, termPolicy := .fault }

/-- The consumer's answer to a buffer request: a handle and a capacity (00_scope.md R6). A handle, like
every address of SX, is a natural: R9 leaves the type OPEN and lets a model take the naturals. -/
structure Answer where
  buf : Nat
  cap : Nat
  deriving DecidableEq, Repr, Inhabited

/-- Free value (notes/assumptions/2.md): the consumer's answer when `State.answers` lists none; the
spec lets it be any handle and any capacity (44_sysex.md R222). -/
opaque Config.freeAnswer : Nat → Answer

/-- Free value (notes/assumptions/5.md): byte `k` of RX buffer `idx` after `RESET`, whose contents
"become unspecified" (45_port.md R254). The arguments are the draw, the buffer and the offset. -/
opaque Config.freeRxByte : Nat → Bool → Nat → Byte

/-- Free value (notes/assumptions/18.md): the byte that stands at an address of SX after a session stored
there while the buffer of another session covers the address; "the stored bytes are `any value` where
buffers overlap" (93_implementation_defined.md U19). The arguments are the draw, the address and the byte
the session stored. -/
opaque Config.freeSxByte : Nat → Nat → Byte → Byte

end Sys2Proof
end

