-- ==== Sys2Proof/Syntax.lean ====
section
/-! DEFINITION. Syntax: the 42 rows of spec/opcode_table.json as one inductive, and the forms in which
an instruction reaches the block (30_encoding.md R91, R93, R95). -/

namespace Sys2Proof

/-- The index of an RX buffer, 0 or 1 (10_state.md R25, R27). -/
inductive RxIdx
  | buf0
  | buf1
  deriving DecidableEq, Repr

/-- The status of a completion notification (60_exceptions.md R274); `other` is every status that is
not success, abort or waiting. -/
inductive XferStatus
  | success
  | aborted
  | waiting
  | other
  deriving DecidableEq, Repr

/-- One constructor per row of spec/opcode_table.json. A packet row keeps every payload byte of the
packet, also those its rule ignores, so that no bit of the encoding is lost. -/
inductive Instr
  -- packet rows, 30_encoding.md R85
  | rxCin0 (cable : Cable) (p1 p2 p3 : Byte)
  | rxCin1 (cable : Cable) (p1 p2 p3 : Byte)
  | rxCin2 (cable : Cable) (p1 p2 p3 : Byte)
  | rxCin3 (cable : Cable) (p1 p2 p3 : Byte)
  | rxCin4 (cable : Cable) (p1 p2 p3 : Byte)
  /-- `p[1]` is 0xF6 in this row and is no operand. -/
  | rxCin5F6 (cable : Cable) (p2 p3 : Byte)
  | rxCin5Term (cable : Cable) (p1 p2 p3 : Byte)
  | rxCin6 (cable : Cable) (p1 p2 p3 : Byte)
  | rxCin7 (cable : Cable) (p1 p2 p3 : Byte)
  | rxCin8 (cable : Cable) (p1 p2 p3 : Byte)
  | rxCin9 (cable : Cable) (p1 p2 p3 : Byte)
  | rxCinA (cable : Cable) (p1 p2 p3 : Byte)
  | rxCinB (cable : Cable) (p1 p2 p3 : Byte)
  | rxCinC (cable : Cable) (p1 p2 p3 : Byte)
  | rxCinD (cable : Cable) (p1 p2 p3 : Byte)
  | rxCinE (cable : Cable) (p1 p2 p3 : Byte)
  | rxCinF (cable : Cable) (p1 p2 p3 : Byte)
  -- status rows, 30_encoding.md R86: the status byte and the data bytes after it (R93)
  | encShortPc (cable : Cable) (status : Byte) (data : List Byte)
  | encShortSpp (cable : Cable) (status : Byte) (data : List Byte)
  | encShortSc1 (cable : Cable) (status : Byte) (data : List Byte)
  | encShortDefault (cable : Cable) (status : Byte) (data : List Byte)
  -- group rows, 30_encoding.md R88
  | encSysexCont (cable : Cable) (g0 g1 g2 : Byte)
  | encSysexEnd1 (cable : Cable) (g0 : Byte)
  | encSysexEnd2 (cable : Cable) (g0 g1 : Byte)
  | encSysexEnd3 (cable : Cable) (g0 g1 g2 : Byte)
  -- operations, 00_scope.md R5
  | encShort (cable : Cable) (m : List Byte) (len : Nat)
  | encSysex (cable : Cable) (bytes : List Byte) (len : Nat)
  | write (cable : Cable) (m : List Byte)
  | sysexWrite (cable : Cable) (bytes : List Byte)
  | sendRaw (cable : Cable) (framed : List Byte)
  | submit (f : List Byte)
  | handover
  | txComplete (status : XferStatus)
  | rxComplete (status : XferStatus) (data : List Byte)
  | decodeChunk (f : RxIdx) (len : Nat)
  | sxAppend (c : Cable) (b1 b2 b3 : Byte)
  | sxBufreq (c : Cable) (need : Nat)
  | sxTerm (c : Cable) (n : Nat) (bs : List Byte)
  | sxReset
  | portOpen
  | portClose
  | reset
  deriving DecidableEq, Repr

/-- The 17 packet rows by name (30_encoding.md R85). -/
inductive RxRow
  | cin0 | cin1 | cin2 | cin3 | cin4 | cin5F6 | cin5Term | cin6 | cin7 | cin8 | cin9
  | cinA | cinB | cinC | cinD | cinE | cinF
  deriving DecidableEq, Repr

/-- The 4 status classes by name (30_encoding.md R86). -/
inductive StatusRow
  | pc | spp | sc1 | dflt
  deriving DecidableEq, Repr

/-- A USB-MIDI Event Packet: exactly 4 bytes, `p0` first on the wire (30_encoding.md R80). -/
structure Packet where
  p0 : Byte
  p1 : Byte
  p2 : Byte
  p3 : Byte
  deriving DecidableEq, Repr

/-- One group of a SysEx fragment, by its position and size: a group of 3 that is not the last, or the
last group with its 1, 2 or 3 bytes (30_encoding.md R88). -/
inductive Group
  | cont (g0 g1 g2 : Byte)
  | end1 (g0 : Byte)
  | end2 (g0 g1 : Byte)
  | end3 (g0 g1 g2 : Byte)
  deriving DecidableEq, Repr

/-- An operation as 30_encoding.md R91 writes it: its name, which selects it (R95), and its operands. The
last argument of five internal functions is the condition their rule puts on the operands. -/
inductive Call
  /-- `len` message bytes are supplied (40_packetizer.md R110; R93: "a byte string `m` of length `len`"). -/
  | encShort (cable : Cable) (m : List Byte) (len : Nat) (supplied : len ≤ m.length)
  /-- `len = |bytes|` (40_packetizer.md R120). -/
  | encSysex (cable : Cable) (bytes : List Byte) (len : Nat) (whole : len = bytes.length)
  | write (cable : Cable) (m : List Byte)
  | sysexWrite (cable : Cable) (bytes : List Byte)
  | sendRaw (cable : Cable) (framed : List Byte)
  /-- "every byte string passed to `SUBMIT` has a length that is a multiple of 4" (40_packetizer.md R118). -/
  | submit (f : List Byte) (packets : f.length % 4 = 0)
  | handover
  | txComplete (status : XferStatus)
  | rxComplete (status : XferStatus) (data : List Byte)
  /-- `len` is a multiple of 4 (43_decode.md R180). -/
  | decodeChunk (f : RxIdx) (len : Nat) (packets : len % 4 = 0)
  | sxAppend (c : Cable) (b1 b2 b3 : Byte)
  | sxBufreq (c : Cable) (need : Nat)
  /-- `n in {1, 2, 3}, |bs| = n` (44_sysex.md R223). -/
  | sxTerm (c : Cable) (n : Nat) (bs : List Byte) (count : 1 ≤ n ∧ n ≤ 3 ∧ bs.length = n)
  | sxReset
  | portOpen
  | portClose
  | reset
  deriving DecidableEq, Repr

/-- The form in which an instruction reaches the block, by the "format" column of the table (R95). -/
inductive Command
  /-- PKT: the four bytes of a packet. -/
  | packet (p : Packet)
  /-- STATUS8: the status byte, which selects the class, with its operands (R93). -/
  | status (s : Byte) (cable : Cable) (data : List Byte)
  /-- GROUP: a group of a SysEx fragment (R88). -/
  | group (cable : Cable) (g : Group)
  /-- OP: an operation with its operands (R91). -/
  | op (c : Call)
  deriving DecidableEq, Repr

/-- Why a bit pattern is no command. -/
inductive Reject
  /-- Its width is neither 32 (a packet) nor 8 (a status byte): "there is no other length and no other
  format" (30_encoding.md R80). -/
  | noSuchFormat (nbits : Nat)
  deriving DecidableEq, Repr

end Sys2Proof
end

