-- ==== Sys2Proof/Machine/Operands.lean ====
section
/-! DEFINITION. Operand forms: the nibbles of a packet's first byte, the classification of a status
byte, and the packets the two encoders assemble (30_encoding.md R83 to R88, 40_packetizer.md). -/

namespace Sys2Proof

/-- `b[7:4]` (00_scope.md R10). -/
def hiNibble (b : Byte) : Nibble := b.extractLsb' 4 4

/-- `b[3:0]` (R10). -/
def loNibble (b : Byte) : Nibble := b.extractLsb' 0 4

/-- `(cable << 4) | cin` (R84). -/
def headerByte (cable : Cable) (cin : Nibble) : Byte :=
  (cable.setWidth 8 <<< 4) ||| cin.setWidth 8

/-- The class of a status byte: a fixed table in priority order, first match wins (R86). -/
def statusRow (s : Byte) : StatusRow :=
  if s &&& 0xE0#8 = 0xC0#8 then .pc
  else if s = 0xF2#8 then .spp
  else if s &&& 0xFC#8 = 0xF4#8 then .sc1
  else .dflt

/-- One packet with the first `min (len, L)` message bytes and zeros in the unused payload positions
(40_packetizer.md R110). -/
def frame (cable : Cable) (cin : Nibble) (m : List Byte) (L : Nat) : List Byte :=
  let q := m.take L
  [headerByte cable cin, q.getD 0 0#8, q.getD 1 0#8, q.getD 2 0#8]

/-- `ENC_SHORT.PC`: CIN 0x2, length 2 (R111). -/
def framePc (cable : Cable) (s : Byte) (data : List Byte) : List Byte :=
  frame cable 0x2#4 (s :: data) 2

/-- `ENC_SHORT.SPP`: CIN 0x3, length `SPP_LEN` (R112). -/
def frameSpp (p : Params) (cable : Cable) (s : Byte) (data : List Byte) : List Byte :=
  frame cable 0x3#4 (s :: data) p.sppLen.toNat

/-- `ENC_SHORT.SC1`: CIN 0x5, length 1 (R113). -/
def frameSc1 (cable : Cable) (s : Byte) (data : List Byte) : List Byte :=
  frame cable 0x5#4 (s :: data) 1

/-- `ENC_SHORT.DEFAULT`: CIN the status byte's high nibble, length 3 (R114). -/
def frameDefault (cable : Cable) (s : Byte) (data : List Byte) : List Byte :=
  frame cable (hiNibble s) (s :: data) 3

/-- The packet of a message by the class of its status byte (R110). -/
def frameShort (p : Params) (cable : Cable) (s : Byte) (data : List Byte) : List Byte :=
  match statusRow s with
  | .pc => framePc cable s data
  | .spp => frameSpp p cable s data
  | .sc1 => frameSc1 cable s data
  | .dflt => frameDefault cable s data

/-- `ENC_SYSEX.CONT` (R121). -/
def groupCont (cable : Cable) (g0 g1 g2 : Byte) : List Byte := [headerByte cable 0x4#4, g0, g1, g2]

/-- `ENC_SYSEX.END1` (R122). -/
def groupEnd1 (cable : Cable) (g0 : Byte) : List Byte := [headerByte cable 0x5#4, g0, 0#8, 0#8]

/-- `ENC_SYSEX.END2` (R123). -/
def groupEnd2 (cable : Cable) (g0 g1 : Byte) : List Byte := [headerByte cable 0x6#4, g0, g1, 0#8]

/-- `ENC_SYSEX.END3` (R124). -/
def groupEnd3 (cable : Cable) (g0 g1 g2 : Byte) : List Byte := [headerByte cable 0x7#4, g0, g1, g2]

/-- `ENC_SYSEX`: groups of 3, one packet each, the last group by its size (R120, R126). -/
def frameSysex (cable : Cable) : List Byte → List Byte
  | [] => []
  | [g0] => groupEnd1 cable g0
  | [g0, g1] => groupEnd2 cable g0 g1
  | [g0, g1, g2] => groupEnd3 cable g0 g1 g2
  | g0 :: g1 :: g2 :: g3 :: rest => groupCont cable g0 g1 g2 ++ frameSysex cable (g3 :: rest)

end Sys2Proof
end

