-- ==== Sys2Proof/WellFormed.lean ====
section
/-! DEFINITION. Well-formed instructions: the conditions the table and the rules put on operands that
their types do not express. -/

namespace Sys2Proof

/-- The checks, constructor by constructor. Rows not listed with a condition admit every operand. -/
def Instr.wellFormed : Instr → Bool
  | .rxCin0 _ _ _ _ => true
  | .rxCin1 _ _ _ _ => true
  | .rxCin2 _ _ _ _ => true
  | .rxCin3 _ _ _ _ => true
  | .rxCin4 _ _ _ _ => true
  | .rxCin5F6 _ _ _ => true
  -- `RX_CIN5_F6` takes the packets with p[1] = 0xF6 (30_encoding.md R85)
  | .rxCin5Term _ p1 _ _ => p1 != 0xF6#8
  | .rxCin6 _ _ _ _ => true
  | .rxCin7 _ _ _ _ => true
  | .rxCin8 _ _ _ _ => true
  | .rxCin9 _ _ _ _ => true
  | .rxCinA _ _ _ _ => true
  | .rxCinB _ _ _ _ => true
  | .rxCinC _ _ _ _ => true
  | .rxCinD _ _ _ _ => true
  | .rxCinE _ _ _ _ => true
  | .rxCinF _ _ _ _ => true
  -- the class of the status byte (R86)
  | .encShortPc _ s _ => statusRow s == .pc
  | .encShortSpp _ s _ => statusRow s == .spp
  | .encShortSc1 _ s _ => statusRow s == .sc1
  | .encShortDefault _ s _ => statusRow s == .dflt
  | .encSysexCont _ _ _ _ => true
  | .encSysexEnd1 _ _ => true
  | .encSysexEnd2 _ _ _ => true
  | .encSysexEnd3 _ _ _ _ => true
  -- `len` message bytes are supplied (40_packetizer.md R110)
  | .encShort _ m len => decide (len ≤ m.length)
  -- `len = |bytes|` (R120)
  | .encSysex _ bytes len => decide (len = bytes.length)
  | .write _ _ => true
  | .sysexWrite _ _ => true
  | .sendRaw _ _ => true
  -- `|f|` a multiple of 4 (41_txflow.md R140)
  | .submit f => decide (f.length % 4 = 0)
  | .handover => true
  | .txComplete _ => true
  | .rxComplete _ _ => true
  -- `len` a multiple of 4 (43_decode.md R180)
  | .decodeChunk _ len => decide (len % 4 = 0)
  | .sxAppend _ _ _ _ => true
  | .sxBufreq _ _ => true
  -- n in 1..3 and `|bs| = n` (44_sysex.md R223)
  | .sxTerm _ n bs => decide (1 ≤ n ∧ n ≤ 3 ∧ bs.length = n)
  | .sxReset => true
  | .portOpen => true
  | .portClose => true
  | .reset => true

end Sys2Proof
end

