-- ==== Sys2Proof/Decode.lean ====
section
/-! DEFINITION. The decoder, total on every command, with the bit patterns of no format rejected by name,
and after it the encoder, both from 30_encoding.md R80 to R95 and spec/opcode_table.json. -/

namespace Sys2Proof

/-! ### Packets (format PKT) -/

/-- The display word of 00_scope.md R10: `p0` most significant. -/
def Packet.ofDisplayWord (w : Nat) : Packet :=
  { p0 := BitVec.ofNat 8 (w / 2 ^ 24)
    p1 := BitVec.ofNat 8 (w / 2 ^ 16)
    p2 := BitVec.ofNat 8 (w / 2 ^ 8)
    p3 := BitVec.ofNat 8 w }

/-- `W = p[0]·2^24 + p[1]·2^16 + p[2]·2^8 + p[3]` (R10, R95). -/
def Packet.displayWord (p : Packet) : BitVec 32 :=
  p.p0 ++ p.p1 ++ p.p2 ++ p.p3

/-- `cable = p[0] >> 4` (R83). -/
def Packet.cable (p : Packet) : Cable := hiNibble p.p0

/-- `cin = p[0] & 0xF` (R83). -/
def Packet.cin (p : Packet) : Nibble := loNibble p.p0

/-- The row of R85: `cin` alone, and for `cin = 0x5` also `p[1]`. -/
def rxRow (cin : Nibble) (p1 : Byte) : RxRow :=
  match cin.toNat with
  | 0x0 => .cin0
  | 0x1 => .cin1
  | 0x2 => .cin2
  | 0x3 => .cin3
  | 0x4 => .cin4
  | 0x5 => if p1 = 0xF6#8 then .cin5F6 else .cin5Term
  | 0x6 => .cin6
  | 0x7 => .cin7
  | 0x8 => .cin8
  | 0x9 => .cin9
  | 0xA => .cinA
  | 0xB => .cinB
  | 0xC => .cinC
  | 0xD => .cinD
  | 0xE => .cinE
  | _ => .cinF

/-- The instruction of a packet row with the packet's fields (R83, R85). -/
def RxRow.toInstr (r : RxRow) (cable : Cable) (p1 p2 p3 : Byte) : Instr :=
  match r with
  | .cin0 => .rxCin0 cable p1 p2 p3
  | .cin1 => .rxCin1 cable p1 p2 p3
  | .cin2 => .rxCin2 cable p1 p2 p3
  | .cin3 => .rxCin3 cable p1 p2 p3
  | .cin4 => .rxCin4 cable p1 p2 p3
  | .cin5F6 => .rxCin5F6 cable p2 p3
  | .cin5Term => .rxCin5Term cable p1 p2 p3
  | .cin6 => .rxCin6 cable p1 p2 p3
  | .cin7 => .rxCin7 cable p1 p2 p3
  | .cin8 => .rxCin8 cable p1 p2 p3
  | .cin9 => .rxCin9 cable p1 p2 p3
  | .cinA => .rxCinA cable p1 p2 p3
  | .cinB => .rxCinB cable p1 p2 p3
  | .cinC => .rxCinC cable p1 p2 p3
  | .cinD => .rxCinD cable p1 p2 p3
  | .cinE => .rxCinE cable p1 p2 p3
  | .cinF => .rxCinF cable p1 p2 p3

/-- All 2^32 packets decode; none is illegal (R89). -/
def decodePacket (p : Packet) : Instr :=
  (rxRow p.cin p.p1).toInstr p.cable p.p1 p.p2 p.p3

/-- One row of the opcode table's packet part (R95). -/
structure PacketMatch where
  row : RxRow
  mask : BitVec 32
  pattern : BitVec 32
  deriving DecidableEq, Repr

/-- The packet rows of spec/opcode_table.json in priority order: `RX_CIN5_F6` has priority 1. -/
def packetTable : List PacketMatch :=
  [⟨.cin5F6, 0x0FFF0000#32, 0x05F60000#32⟩, ⟨.cin0, 0x0F000000#32, 0x00000000#32⟩,
   ⟨.cin1, 0x0F000000#32, 0x01000000#32⟩, ⟨.cin2, 0x0F000000#32, 0x02000000#32⟩,
   ⟨.cin3, 0x0F000000#32, 0x03000000#32⟩, ⟨.cin4, 0x0F000000#32, 0x04000000#32⟩,
   ⟨.cin5Term, 0x0F000000#32, 0x05000000#32⟩, ⟨.cin6, 0x0F000000#32, 0x06000000#32⟩,
   ⟨.cin7, 0x0F000000#32, 0x07000000#32⟩] ++
  [⟨.cin8, 0x0F000000#32, 0x08000000#32⟩, ⟨.cin9, 0x0F000000#32, 0x09000000#32⟩,
   ⟨.cinA, 0x0F000000#32, 0x0A000000#32⟩, ⟨.cinB, 0x0F000000#32, 0x0B000000#32⟩,
   ⟨.cinC, 0x0F000000#32, 0x0C000000#32⟩, ⟨.cinD, 0x0F000000#32, 0x0D000000#32⟩,
   ⟨.cinE, 0x0F000000#32, 0x0E000000#32⟩, ⟨.cinF, 0x0F000000#32, 0x0F000000#32⟩]

/-- The row the table selects: the first, in priority order, with `W & mask = match` (R95). -/
def tableRow (p : Packet) : Option RxRow :=
  (packetTable.find? fun r => p.displayWord &&& r.mask == r.pattern).map (·.row)

/-! ### Status bytes (format STATUS8) and groups (format GROUP) -/

/-- The instruction of a status class (R86, R93). -/
def StatusRow.toInstr (r : StatusRow) (cable : Cable) (s : Byte) (data : List Byte) : Instr :=
  match r with
  | .pc => .encShortPc cable s data
  | .spp => .encShortSpp cable s data
  | .sc1 => .encShortSc1 cable s data
  | .dflt => .encShortDefault cable s data

/-- Position and size select the group row (R88); `none` where `ENC_SYSEX` makes no such group: every
group but the last has 3 bytes and the last 1 to 3 (40_packetizer.md R120). -/
def groupOf (last : Bool) (bytes : List Byte) : Option Group :=
  match last, bytes with
  | false, [g0, g1, g2] => some (.cont g0 g1 g2)
  | true, [g0] => some (.end1 g0)
  | true, [g0, g1] => some (.end2 g0 g1)
  | true, [g0, g1, g2] => some (.end3 g0 g1 g2)
  | _, _ => none

/-- The instruction of a group row. -/
def Group.toInstr (g : Group) (cable : Cable) : Instr :=
  match g with
  | .cont g0 g1 g2 => .encSysexCont cable g0 g1 g2
  | .end1 g0 => .encSysexEnd1 cable g0
  | .end2 g0 g1 => .encSysexEnd2 cable g0 g1
  | .end3 g0 g1 g2 => .encSysexEnd3 cable g0 g1 g2

/-! ### Operations (format OP) -/

/-- The instruction of an operation (R91, R95). -/
def Call.toInstr : Call → Instr
  | .encShort c m len _ => .encShort c m len
  | .encSysex c bs len _ => .encSysex c bs len
  | .write c m => .write c m
  | .sysexWrite c bs => .sysexWrite c bs
  | .sendRaw c f => .sendRaw c f
  | .submit f _ => .submit f
  | .handover => .handover
  | .txComplete st => .txComplete st
  | .rxComplete st d => .rxComplete st d
  | .decodeChunk f len _ => .decodeChunk f len
  | .sxAppend c b1 b2 b3 => .sxAppend c b1 b2 b3
  | .sxBufreq c need => .sxBufreq c need
  | .sxTerm c n bs _ => .sxTerm c n bs
  | .sxReset => .sxReset
  | .portOpen => .portOpen
  | .portClose => .portClose
  | .reset => .reset

/-- The decoder: every command is an instruction. No packet is illegal and no status byte is refused
(R89); a group or an operation is one of those the rules describe. -/
def decode : Command → Instr
  | .packet p => decodePacket p
  | .status s cable data => (statusRow s).toInstr cable s data
  | .group cable g => g.toInstr cable
  | .op c => c.toInstr

/-- The first packet of a byte string and the bytes after it (R94); `none` on fewer than 4 bytes. -/
def decodePacketBytes : List Byte → Option (Instr × List Byte)
  | p0 :: p1 :: p2 :: p3 :: rest => some (decodePacket ⟨p0, p1, p2, p3⟩, rest)
  | _ => none

/-! ### The words of spec/opcode_table.json -/

/-- The command a word of the table stands for: 32 bits are a packet's display word, 8 bits a status
byte with the operands zero (cable 0, no data byte). GROUP rows describe packets produced, not words
matched, and OP rows have no bits (R95; notes/assumptions/12.md). -/
def commandOfTableWord (nbits w : Nat) : Except Reject Command :=
  if nbits = 32 then .ok (.packet (Packet.ofDisplayWord w))
  else if nbits = 8 then .ok (.status (BitVec.ofNat 8 w) 0#4 [])
  else .error (.noSuchFormat nbits)

/-- The instruction the decoder reads from a word of the opcode table. -/
def decodeTableWord (nbits w : Nat) : Option Instr :=
  match commandOfTableWord nbits w with
  | .ok cmd => some (decode cmd)
  | .error _ => none

/-! ### The encoder -/

/-- A packet of cable, CIN and three payload bytes (R84). -/
def packetOf (cable : Cable) (cin : Nibble) (p1 p2 p3 : Byte) : Command :=
  .packet ⟨headerByte cable cin, p1, p2, p3⟩

/-- The form of an instruction. An operation whose operands are not those its rule describes has no form
(`none`); every well-formed instruction has one. -/
def encode : Instr → Option Command
  | .rxCin0 c p1 p2 p3 => some (packetOf c 0x0#4 p1 p2 p3)
  | .rxCin1 c p1 p2 p3 => some (packetOf c 0x1#4 p1 p2 p3)
  | .rxCin2 c p1 p2 p3 => some (packetOf c 0x2#4 p1 p2 p3)
  | .rxCin3 c p1 p2 p3 => some (packetOf c 0x3#4 p1 p2 p3)
  | .rxCin4 c p1 p2 p3 => some (packetOf c 0x4#4 p1 p2 p3)
  | .rxCin5F6 c p2 p3 => some (packetOf c 0x5#4 0xF6#8 p2 p3)
  | .rxCin5Term c p1 p2 p3 => some (packetOf c 0x5#4 p1 p2 p3)
  | .rxCin6 c p1 p2 p3 => some (packetOf c 0x6#4 p1 p2 p3)
  | .rxCin7 c p1 p2 p3 => some (packetOf c 0x7#4 p1 p2 p3)
  | .rxCin8 c p1 p2 p3 => some (packetOf c 0x8#4 p1 p2 p3)
  | .rxCin9 c p1 p2 p3 => some (packetOf c 0x9#4 p1 p2 p3)
  | .rxCinA c p1 p2 p3 => some (packetOf c 0xA#4 p1 p2 p3)
  | .rxCinB c p1 p2 p3 => some (packetOf c 0xB#4 p1 p2 p3)
  | .rxCinC c p1 p2 p3 => some (packetOf c 0xC#4 p1 p2 p3)
  | .rxCinD c p1 p2 p3 => some (packetOf c 0xD#4 p1 p2 p3)
  | .rxCinE c p1 p2 p3 => some (packetOf c 0xE#4 p1 p2 p3)
  | .rxCinF c p1 p2 p3 => some (packetOf c 0xF#4 p1 p2 p3)
  | .encShortPc c s d => some (.status s c d)
  | .encShortSpp c s d => some (.status s c d)
  | .encShortSc1 c s d => some (.status s c d)
  | .encShortDefault c s d => some (.status s c d)
  | .encSysexCont c g0 g1 g2 => some (.group c (.cont g0 g1 g2))
  | .encSysexEnd1 c g0 => some (.group c (.end1 g0))
  | .encSysexEnd2 c g0 g1 => some (.group c (.end2 g0 g1))
  | .encSysexEnd3 c g0 g1 g2 => some (.group c (.end3 g0 g1 g2))
  | .encShort c m len => if h : len ≤ m.length then some (.op (.encShort c m len h)) else none
  | .encSysex c bs len => if h : len = bs.length then some (.op (.encSysex c bs len h)) else none
  | .write c m => some (.op (.write c m))
  | .sysexWrite c bs => some (.op (.sysexWrite c bs))
  | .sendRaw c f => some (.op (.sendRaw c f))
  | .submit f => if h : f.length % 4 = 0 then some (.op (.submit f h)) else none
  | .handover => some (.op .handover)
  | .txComplete st => some (.op (.txComplete st))
  | .rxComplete st d => some (.op (.rxComplete st d))
  | .decodeChunk f len => if h : len % 4 = 0 then some (.op (.decodeChunk f len h)) else none
  | .sxAppend c b1 b2 b3 => some (.op (.sxAppend c b1 b2 b3))
  | .sxBufreq c need => some (.op (.sxBufreq c need))
  | .sxTerm c n bs => if h : 1 ≤ n ∧ n ≤ 3 ∧ bs.length = n then some (.op (.sxTerm c n bs h)) else none
  | .sxReset => some (.op .sxReset)
  | .portOpen => some (.op .portOpen)
  | .portClose => some (.op .portClose)
  | .reset => some (.op .reset)

end Sys2Proof
end

