-- ==== Sys2Proof/Machine/State.lean ====
section
/-! DEFINITION. The state of the block (10_state.md R20), of the transport and the consumer, and the
model's own fields; the reasons a step stops; the state after reset (10_state.md R36). -/

namespace Sys2Proof.Machine

/-- The errors of 60_exceptions.md R270. -/
inductive ErrCode
  | invalidMessageLength
  | queueFull
  | transferError
  | notOpen
  | invalidRawLength
  deriving DecidableEq, Repr

/-- The fault causes of 60_exceptions.md R272, latched in `S.fault` (10_state.md R31). -/
inductive FaultCause
  | badChunkLength
  | sysExNoBuffer
  | sysExTermNoSession
  | sysExOverrun
  deriving DecidableEq, Repr

/-- What an operation returned to its invoker (00_scope.md R7). -/
inductive OpOutcome
  | ok
  | err (code : ErrCode)
  | fault (cause : FaultCause)
  deriving DecidableEq, Repr

/-- The events of 00_scope.md R8. The lifecycle events carry no cable number, which 45_port.md R255
allows (notes/assumptions/15.md). -/
inductive Event
  /-- A `submit_out` request to the transport. -/
  | submitOut (bytes : List Byte)
  /-- An `arm_in` request: receive up to `len` bytes into RX buffer `idx`. -/
  | armIn (idx : RxIdx) (len : Nat)
  /-- A buffer request with its answer; `prev` is the handle and length handed off, if any. -/
  | bufReq (cable : Cable) (prev : Option (Nat × Nat)) (answer : Answer)
  /-- A short message. -/
  | msg (cable : Cable) (bytes : List Byte)
  /-- A completed SysEx message: `len` bytes at `buf` in SX. -/
  | sysExMsg (cable : Cable) (buf : Nat) (len : Nat)
  | portOpened
  | portClosed
  | txDone
  deriving DecidableEq, Repr

/-- A SysEx session (10_state.md R21). -/
structure Session where
  buf : Option Nat
  pos : Nat
  capLeft : Nat
  deriving DecidableEq, Repr

/-- The empty session (10_state.md R22). -/
def Session.empty : Session := { buf := none, pos := 0, capLeft := 0 }

/-- The consumer's memory SX (20_memory.md R50): the bytes the block has stored, addresses strictly
rising; an address not listed has no value (notes/assumptions/7.md). -/
abbrev Memory := List Host.Cell

/-- Reasons a step stops with a host fault. The spec's own faults are no stops: they are latched in
`S.fault` and the step goes on (notes/assumptions/14.md). -/
inductive Fault
  /-- Raised by `HANDOVER` invoked on its own while `S.txq` is empty: 41_txflow.md R141 says it is
  called only when the queue holds bytes. Safe (notes/assumptions/10.md). -/
  | handoverEmptyQueue
  /-- Raised by `DECODE_CHUNK` invoked on its own with `len > RX_BUF_SIZE`: the addresses do not exist
  (20_memory.md R50). Safe (notes/assumptions/11.md). -/
  | rxBufferRange
  deriving DecidableEq, Repr

/-- Reasons a step refuses. -/
inductive Refusal
  /-- Raised by `exec`'s arm of an instruction that has no meaning yet; no arm is left so. Safe. -/
  | notModelled (mnemonic : String)
  /-- Raised by `TX_COMPLETE` and `RX_COMPLETE` on an open port when the transport holds no request to
  complete: "A model gives the transport no move that completes a request it does not hold"
  (42_rxhandoff.md R166; 93_implementation_defined.md U17). Safe (notes/assumptions/13.md). -/
  | noMove
  deriving DecidableEq, Repr

/-- The state. The first ten fields are the spec's (10_state.md R20), `sxmem` is the consumer's memory, the
others are the model's own. -/
structure State where
  /-- `S.open` (R28). -/
  isOpen : Bool
  /-- `S.sending` (R23). -/
  sending : Bool
  /-- `S.txq`, oldest byte first (R24). -/
  txq : List Byte
  /-- `S.rx_active` (R25). -/
  rxActive : RxIdx
  /-- `S.rxbuf[0]`, `RX_BUF_SIZE` bytes (R27). -/
  rxbuf0 : List Byte
  /-- `S.rxbuf[1]`, `RX_BUF_SIZE` bytes (R27). -/
  rxbuf1 : List Byte
  /-- `S.sx[0..15]` (R21). -/
  sx : Vector Session 16
  /-- `S.fault` (R31). -/
  fault : Option FaultCause
  /-- `T.tx_inflight` (R29). -/
  txInflight : Option (List Byte)
  /-- `T.rx_armed` (R30). -/
  rxArmed : Option RxIdx
  /-- The address space SX (20_memory.md R50). -/
  sxmem : Memory
  /-- The parameters (00_scope.md R9); no operation writes them. -/
  cfg : Params
  /-- The agents' operations still to be performed, in order (60_exceptions.md R277). -/
  inbox : List Command
  /-- The consumer's coming answers to buffer requests (00_scope.md R6). -/
  answers : List Answer
  /-- The number of the next free value drawn. -/
  draws : Nat
  /-- The events emitted, oldest first (00_scope.md R8). -/
  trace : List Event
  /-- What the last operation returned (00_scope.md R7). -/
  outcome : OpOutcome
  /-- What the last encoder function returned (40_packetizer.md R110, R120). -/
  result : List Byte
  deriving DecidableEq, Repr

/-- The state after reset (10_state.md R36), with the default parameters. The spec leaves the RX
buffers' contents unspecified: DESIGN CHOICE zero (notes/assumptions/5.md, unsafe). The model's own
fields: notes/assumptions/1.md to 4.md. -/
def State.reset : State :=
  { isOpen := false
    sending := false
    txq := []
    rxActive := .buf0
    rxbuf0 := List.replicate Params.default.rxBufSize 0#8
    rxbuf1 := List.replicate Params.default.rxBufSize 0#8
    sx := Vector.replicate 16 Session.empty
    fault := none
    txInflight := none
    rxArmed := none
    sxmem := []
    cfg := Params.default
    inbox := []
    answers := []
    draws := 0
    trace := []
    outcome := .ok
    result := [] }

end Sys2Proof.Machine
end

