-- ==== Sys2Proof/Machine/Flags.lean ====
section
/-! DEFINITION. The one-bit state elements and the status register: `S.open`, `S.sending`,
`S.rx_active`, `S.fault` (10_state.md R23, R25, R28, R31). -/

namespace Sys2Proof.Machine

/-- `1 - idx` (10_state.md R25). -/
def otherIdx : RxIdx → RxIdx
  | .buf0 => .buf1
  | .buf1 => .buf0

/-- `S.sending <- v`. -/
def State.setSending (s : State) (v : Bool) : State := { s with sending := v }

/-- `S.open <- v`. -/
def State.setOpen (s : State) (v : Bool) : State := { s with isOpen := v }

/-- `S.rx_active <- idx`. -/
def State.setRxActive (s : State) (idx : RxIdx) : State := { s with rxActive := idx }

/-- The `fault` primitive's write: `S.fault <- cause`, only when it is `None` (00_scope.md R12, R31). -/
def State.latch (s : State) (cause : FaultCause) : State :=
  { s with fault := some (s.fault.getD cause) }

/-- The number of an error (60_exceptions.md R270). -/
def errNumber : ErrCode → Nat
  | .invalidMessageLength => 1
  | .queueFull => 2
  | .transferError => 3
  | .notOpen => 4
  | .invalidRawLength => 5

/-- The number of a fault cause (60_exceptions.md R272). -/
def causeNumber : FaultCause → Nat
  | .badChunkLength => 1
  | .sysExNoBuffer => 2
  | .sysExTermNoSession => 3
  | .sysExOverrun => 4

end Sys2Proof.Machine
end

