-- ==== Sys2Proof/Machine/Ops.lean ====
section
/-! DEFINITION. The named operations over memory and registers (00_scope.md R12), the three outcomes of
an operation as one shared operation (00_scope.md R7), and fetching the next command. -/

namespace Sys2Proof.Machine

/-! ### The consumer's memory SX (20_memory.md R50, R55) -/

/-- The canonical form: addresses strictly rising. An unlisted address has no value, so no entry can
equal what an unlisted address reads as. -/
abbrev Memory.wf (m : Memory) : Prop := m.Pairwise (fun x y => x.1 < y.1)

/-- The byte at an address; `none` where the block has stored nothing (notes/assumptions/7.md). -/
def Memory.read : Memory → Nat → Option Byte
  | [], _ => none
  | (b, v) :: m, a => if a = b then some v else Memory.read m a

/-- `MemWrite(SX, a, 1, v)`. -/
def Memory.write : Memory → Nat → Byte → Memory
  | [], a, v => [(a, v)]
  | (b, w) :: m, a, v =>
    if a < b then (a, v) :: (b, w) :: m
    else if a = b then (a, v) :: m
    else (b, w) :: Memory.write m a v

/-- Single-byte stores at ascending addresses, in payload order (20_memory.md R55). -/
def Memory.store : Memory → Nat → List Byte → Memory
  | m, _, [] => m
  | m, a, b :: bs => Memory.store (Memory.write m a b) (a + 1) bs

/-- `MemRead(SX, a, n)`, lowest address first: what the consumer sees of a delivered buffer
(00_scope.md R8). No operation of the block uses it. -/
def Memory.readBytes (m : Memory) : Nat → Nat → Option (List Byte)
  | _, 0 => some []
  | a, n + 1 => do
    let b ← Memory.read m a
    let bs ← Memory.readBytes m (a + 1) n
    return b :: bs

/-! ### The session file (10_state.md R21, R34) -/

/-- `sx[c]`. -/
def State.session (s : State) (c : Cable) : Session := s.sx[c.toNat]'c.isLt

/-- `sx[c] <- v`. -/
def State.setSession (s : State) (c : Cable) (v : Session) : State :=
  { s with sx := s.sx.set c.toNat v c.isLt }

/-! ### The RX buffers (10_state.md R27) -/

/-- `S.rxbuf[f]`. -/
def State.rxbuf (s : State) : RxIdx → List Byte
  | .buf0 => s.rxbuf0
  | .buf1 => s.rxbuf1

/-- `MemWrite(RXBUF_f, 0, |data|, data)`: bytes at and above `|data|` keep their old values (R27). -/
def State.writeRx (s : State) (f : RxIdx) (data : List Byte) : State :=
  match f with
  | .buf0 => { s with rxbuf0 := data ++ s.rxbuf0.drop data.length }
  | .buf1 => { s with rxbuf1 := data ++ s.rxbuf1.drop data.length }

/-- `MemRead(RXBUF_f, off, 4)` as a packet (43_decode.md R180). -/
def State.rxPacket (s : State) (f : RxIdx) (off : Nat) : Packet :=
  { p0 := (s.rxbuf f).getD off 0#8
    p1 := (s.rxbuf f).getD (off + 1) 0#8
    p2 := (s.rxbuf f).getD (off + 2) 0#8
    p3 := (s.rxbuf f).getD (off + 3) 0#8 }

/-! ### Events (00_scope.md R8, R12) -/

/-- `emit E`. -/
def State.emit (s : State) (e : Event) : State := { s with trace := s.trace ++ [e] }

/-- `emit SubmitOut(bytes)`: the transport then holds the request (10_state.md R29). -/
def State.submitOut (s : State) (bytes : List Byte) : State :=
  { s with trace := s.trace ++ [.submitOut bytes], txInflight := some bytes }

/-- `emit ArmIn(idx, RX_BUF_SIZE)`: the transport then holds the request (10_state.md R30;
42_rxhandoff.md R164). -/
def State.armIn (s : State) (idx : RxIdx) : State :=
  { s with trace := s.trace ++ [.armIn idx s.cfg.rxBufSize], rxArmed := some idx }

/-! ### The transport's notifications (10_state.md R29, R30; 42_rxhandoff.md R166) -/

/-- Whether the transport may deliver `TX_COMPLETE status` on an open port: it holds the request
(70_reset_and_hazards.md R333), or nothing is being sent, where `Success` is a defined no-op
(41_txflow.md R142; 92_eei_decisions.md D15). -/
def State.txOwed (s : State) (status : XferStatus) : Bool :=
  s.txInflight.isSome || (status == .success && !s.sending)

/-- The same of `RX_COMPLETE`, of any status: it holds the request, "`T.rx_armed` not `None`"
(42_rxhandoff.md R166). -/
def State.rxOwed (s : State) : Bool := s.rxArmed.isSome

/-- The transport has delivered `TX_COMPLETE`: it no longer holds the request, on any status
(10_state.md R29; notes/assumptions/8.md). -/
def State.txNotified (s : State) : State := { s with txInflight := none }

/-- The transport has delivered `RX_COMPLETE` (10_state.md R30; notes/assumptions/8.md). -/
def State.rxNotified (s : State) : State := { s with rxArmed := none }

/-- The consumer's next answer: the first listed, or a free value (notes/assumptions/2.md). -/
def State.nextAnswer (s : State) : Answer :=
  match s.answers with
  | [] => Config.freeAnswer s.draws
  | a :: _ => a

/-- The state once that answer has been given. -/
def State.dropAnswer (s : State) : State :=
  match s.answers with
  | [] => { s with draws := s.draws + 1 }
  | _ :: rest => { s with answers := rest }

/-! ### The outcomes of an operation (00_scope.md R7; 60_exceptions.md R270, R272, R278) -/

/-- A step's result. -/
abbrev Res := Host.Outcome State Fault Refusal

/-- The outcome an operation that raised no error returns: `Fault(S.fault)` if it latched a cause. -/
def State.endOutcome (s : State) : OpOutcome :=
  match s.fault with
  | none => .ok
  | some cause => .fault cause

/-- Taking an error or a fault, for every operation but `RESET`. While `S.fault` is not `None` the
operation is refused: no state change, no event, outcome `Fault(S.fault)` (10_state.md R31). An error
leaves the state as it was before the operation (R270). A fault keeps what the operation wrote before
it and is latched in the state the operation gives (00_scope.md R12). The way back from a fault is
`RESET` alone (60_exceptions.md R279). -/
def invoke (op : State → Except ErrCode State) (s : State) : Res :=
  match s.fault with
  | some cause => .next { s with outcome := .fault cause }
  | none =>
    match op s with
    | .error e => .next { s with outcome := .err e }
    | .ok t => .next { t with outcome := t.endOutcome }

/-! ### Fetching -/

/-- The next command of the inbox and the state without it; `none` when no agent has invoked an
operation (10_state.md R36: the block then does nothing). -/
def State.fetch (s : State) : Option (Command × State) :=
  match s.inbox with
  | [] => none
  | c :: rest => some (c, { s with inbox := rest })

end Sys2Proof.Machine
end

