-- ==== Sys2Proof/Machine/Sysex.lean ====
section
/-! DEFINITION. The SysEx Reassembler: `SX_BUFREQ`, `SX_APPEND`, `SX_TERM`, `SX_RESET` (44_sysex.md). -/

namespace Sys2Proof.Machine

/-- What a session hands off: nothing if it is empty, else its buffer and the bytes in it (R222). -/
def Session.prev (x : Session) : Option (Nat × Nat) := x.buf.map fun a => (a, x.pos)

/-- `SX_BUFREQ`: ask, reset the session, then install the answer or fault (R222, R227). -/
def sxBufreq (c : Cable) (need : Nat) (s : State) : State :=
  let ans := s.nextAnswer
  let t := (s.dropAnswer.emit (.bufReq c (s.session c).prev ans)).setSession c Session.empty
  if ans.cap < need then t.latch .sysExNoBuffer
  else t.setSession c { buf := some ans.buf, pos := 0, capLeft := ans.cap }

/-- The addresses of the session's lent buffer (20_memory.md R58): `buf` up to its capacity, which is
`pos + cap_left` (10_state.md R22). -/
def Session.covers (x : Session) (y : Nat) : Bool :=
  match x.buf with
  | none => false
  | some a => decide (a ≤ y) && decide (y < a + x.pos + x.capLeft)

/-- The 16 cables (00_scope.md R9). -/
def cables : List Cable := (List.range 16).map (BitVec.ofNat 4)

/-- Whether the buffer of another cable's session covers the address (70_reset_and_hazards.md R322). -/
def State.lentElsewhere (s : State) (c : Cable) (y : Nat) : Bool :=
  cables.any fun d => d != c && (s.session d).covers y

/-- The bytes that stand from `x` upward once cable `c` has stored bytes there: those it stored, and free
values where another session's buffer overlaps (93_implementation_defined.md U19; 20_memory.md R65;
notes/assumptions/18.md). -/
def State.landing (s : State) (c : Cable) : Nat → List Byte → List Byte
  | _, [] => []
  | x, b :: bs =>
    (if s.lentElsewhere c x then Config.freeSxByte s.draws x b else b) :: s.landing c (x + 1) bs

/-- Store bytes at `buf + pos` upward, advance `pos`, shrink `cap_left` (R221). The callers have made
sure of a buffer with room. Every store takes a draw of its own. -/
def sxStore (c : Cable) (bs : List Byte) (s : State) : State :=
  let x := s.session c
  match x.buf with
  | none => s
  | some a =>
    let y := a + x.pos
    { s with sxmem := s.sxmem.store y (s.landing c y bs), draws := s.draws + 1 }.setSession c
      { buf := some a, pos := x.pos + bs.length, capLeft := x.capLeft - bs.length }

/-- Deliver the active buffer and its length, then empty the session (R223). -/
def sxDeliver (c : Cable) (s : State) : State :=
  let x := s.session c
  match x.buf with
  | none => s
  | some a => (s.emit (.sysExMsg c a x.pos)).setSession c Session.empty

/-- `SX_APPEND` (R221). -/
def sxAppend (c : Cable) (b1 b2 b3 : Byte) (s : State) : State :=
  let x := s.session c
  let t := if x.buf = none ∨ x.capLeft < 3 then sxBufreq c 3 s else s
  if t.fault.isSome then t else sxStore c [b1, b2, b3] t

/-- What a termination does without a buffer or without room, by `TERM_POLICY` (R224). -/
def termRoom (c : Cable) (n : Nat) (cause : FaultCause) (s : State) : State :=
  match s.cfg.termPolicy with
  | .fault => s.latch cause
  | .request => sxBufreq c n s

/-- The room check of `SX_TERM` (R223, R224). -/
def sxTermRoom (c : Cable) (n : Nat) (s : State) : State :=
  let x := s.session c
  if x.buf = none then termRoom c n .sysExTermNoSession s
  else if x.capLeft < n then termRoom c n .sysExOverrun s
  else s

/-- `SX_TERM` (R223). -/
def sxTerm (c : Cable) (bs : List Byte) (s : State) : State :=
  let t := sxTermRoom c bs.length s
  if t.fault.isSome then t else sxDeliver c (sxStore c bs t)

/-- `SX_RESET`: all 16 sessions empty (R225). -/
def sxReset (s : State) : State := { s with sx := Vector.replicate 16 Session.empty }

def execSxAppend (c : Cable) (b1 b2 b3 : Byte) (s : State) : Res :=
  invoke (fun s => .ok (sxAppend c b1 b2 b3 s)) s

def execSxBufreq (c : Cable) (need : Nat) (s : State) : Res :=
  invoke (fun s => .ok (sxBufreq c need s)) s

def execSxTerm (c : Cable) (n : Nat) (bs : List Byte) (s : State) : Res :=
  invoke (fun s => .ok (sxTerm c (bs.take n) s)) s

def execSxReset (s : State) : Res := invoke (fun s => .ok (sxReset s)) s

end Sys2Proof.Machine
end

