-- ==== Sys2Proof/Machine/Lifecycle.lean ====
section
/-! DEFINITION. `PORT_OPEN`, `PORT_CLOSE`, `RESET` (45_port.md). -/

namespace Sys2Proof.Machine

/-- `PORT_OPEN`; without effect when the port is open (R250, R251). What the transport held before is
gone at the next open at the latest (R252). -/
def portOpen (s : State) : State :=
  if s.isOpen then s
  else
    let t := { s with txInflight := none }
    (((t.setOpen true).setRxActive .buf0).armIn .buf0).emit .portOpened

def execPortOpen (s : State) : Res := invoke (fun s => .ok (portOpen s)) s

/-- `PORT_CLOSE`; without effect when the port is closed (R252, R253). -/
def portClose (s : State) : State :=
  if s.isOpen then
    let t := (s.setOpen false).setSending false
    (sxReset { t with txq := [] }).emit .portClosed
  else s

def execPortClose (s : State) : Res := invoke (fun s => .ok (portClose s)) s

/-- RX buffer contents after `RESET`: unspecified, so free values (R254; notes/assumptions/5.md). -/
def freeRxBuf (s : State) (idx : RxIdx) : List Byte :=
  (List.range s.cfg.rxBufSize).map (Config.freeRxByte s.draws (idx == .buf1))

/-- `RESET`: every element of the block and of the transport takes its reset value, no event; accepted
also while `S.fault` is not `None`, which it clears (R254; 10_state.md R36). -/
def resetBlock (s : State) : State :=
  let t := sxReset s
  { t with
    isOpen := false
    sending := false
    txq := []
    rxActive := .buf0
    rxbuf0 := freeRxBuf s .buf0
    rxbuf1 := freeRxBuf s .buf1
    fault := none
    txInflight := none
    rxArmed := none
    draws := s.draws + 1
    outcome := .ok }

def execReset (s : State) : Res := .next (resetBlock s)

end Sys2Proof.Machine
end

