-- ==== Sys2Proof/Machine/TxFlow.lean ====
section
/-! DEFINITION. The Outbound Flow Controller: `SUBMIT`, `HANDOVER`, `TX_COMPLETE` (41_txflow.md). -/

namespace Sys2Proof.Machine

/-- `HANDOVER`: pop the oldest `min(|txq|, MAX_XFER)` bytes and submit them (R141). -/
def handover (s : State) : State :=
  let n := min s.txq.length s.cfg.maxXfer
  let chunk := s.txq.take n
  { s with txq := s.txq.drop n }.submitOut chunk

/-- `HANDOVER` invoked on its own. It is called only when the queue holds bytes (R141), so on an empty
queue it stops (notes/assumptions/10.md); refusal on a latched fault comes first (10_state.md R31). -/
def execHandover (s : State) : Res :=
  if s.fault = none ∧ s.txq = [] then .fault .handoverEmptyQueue
  else invoke (fun s => .ok (handover s)) s

/-- `SUBMIT`: one critical section, one atomic step (R140, R148). -/
def submit (f : List Byte) (s : State) : Except ErrCode State :=
  if f = [] then .ok s
  else if s.cfg.qCap < s.txq.length + f.length then .error .queueFull
  else
    let t := { s with txq := s.txq ++ f }
    if s.sending then .ok t else .ok (handover (t.setSending true))

def execSubmit (f : List Byte) (s : State) : Res := invoke (submit f) s

/-- `TX_COMPLETE` once the notification has been taken from the transport (R142, R143, R144). -/
def txComplete (status : XferStatus) (s : State) : Except ErrCode State :=
  if s.isOpen = false then .ok s
  else
    match status with
    | .success =>
      let t := if s.txq = [] then s.setSending false else handover s
      .ok (if s.sending then t.emit .txDone else t)
    | .aborted => .ok s
    | .waiting => .ok s
    | .other => .error .transferError

/-- `TX_COMPLETE`. On an open port without a latched fault (60_exceptions.md R273, R276) a notification the
transport does not owe is no move (93_implementation_defined.md U17; notes/assumptions/13.md). -/
def execTxComplete (status : XferStatus) (s : State) : Res :=
  if s.fault = none ∧ s.isOpen = true ∧ s.txOwed status = false then .refused .noMove
  else invoke (txComplete status) s.txNotified

end Sys2Proof.Machine
end

