-- ==== Sys2Proof/Machine/Packetizer.lean ====
section
/-! DEFINITION. The Outbound Packetizer: `ENC_SHORT`, `ENC_SYSEX`, their rows, `WRITE`, `SYSEX_WRITE`,
`SEND_RAW` (40_packetizer.md). -/

namespace Sys2Proof.Machine

/-- The result of a pure function, for its invoker to read (R110: state written, none). -/
def State.giveResult (s : State) (bytes : List Byte) : State := { s with result := bytes }

/-- `ENC_SHORT` on the message bytes supplied: the length check, then the class (R110, R119). -/
def encShort (p : Params) (cable : Cable) (m : List Byte) : Except ErrCode (List Byte) :=
  match m with
  | [] => .error .invalidMessageLength
  | s :: data =>
    if data.length ≤ 2 then .ok (frameShort p cable s data) else .error .invalidMessageLength

/-- A class row on its own: the length check, the status byte counted (R119), then the class's packet
`pkt`. -/
def classRow (data pkt : List Byte) (s : State) : Except ErrCode State :=
  if data.length ≤ 2 then .ok (s.giveResult pkt) else .error .invalidMessageLength

/-- `ENC_SHORT.PC` (R111). -/
def execEncShortPc (cable : Cable) (s : Byte) (data : List Byte) (st : State) : Res :=
  invoke (fun st => classRow data (framePc cable s data) st) st

/-- `ENC_SHORT.SPP` (R112). -/
def execEncShortSpp (cable : Cable) (s : Byte) (data : List Byte) (st : State) : Res :=
  invoke (fun st => classRow data (frameSpp st.cfg cable s data) st) st

/-- `ENC_SHORT.SC1` (R113). -/
def execEncShortSc1 (cable : Cable) (s : Byte) (data : List Byte) (st : State) : Res :=
  invoke (fun st => classRow data (frameSc1 cable s data) st) st

/-- `ENC_SHORT.DEFAULT` (R114). -/
def execEncShortDefault (cable : Cable) (s : Byte) (data : List Byte) (st : State) : Res :=
  invoke (fun st => classRow data (frameDefault cable s data) st) st

/-- `ENC_SYSEX.CONT` (R121). -/
def execEncSysexCont (cable : Cable) (g0 g1 g2 : Byte) (st : State) : Res :=
  invoke (fun st => .ok (st.giveResult (groupCont cable g0 g1 g2))) st

/-- `ENC_SYSEX.END1` (R122). -/
def execEncSysexEnd1 (cable : Cable) (g0 : Byte) (st : State) : Res :=
  invoke (fun st => .ok (st.giveResult (groupEnd1 cable g0))) st

/-- `ENC_SYSEX.END2` (R123). -/
def execEncSysexEnd2 (cable : Cable) (g0 g1 : Byte) (st : State) : Res :=
  invoke (fun st => .ok (st.giveResult (groupEnd2 cable g0 g1))) st

/-- `ENC_SYSEX.END3` (R124). -/
def execEncSysexEnd3 (cable : Cable) (g0 g1 g2 : Byte) (st : State) : Res :=
  invoke (fun st => .ok (st.giveResult (groupEnd3 cable g0 g1 g2))) st

/-- `ENC_SHORT`: bytes at index `len` and above are never looked at (R110). -/
def execEncShort (cable : Cable) (m : List Byte) (len : Nat) (st : State) : Res :=
  invoke (fun st => (encShort st.cfg cable (m.take len)).map st.giveResult) st

/-- `ENC_SYSEX` (R120). -/
def execEncSysex (cable : Cable) (bytes : List Byte) (len : Nat) (st : State) : Res :=
  invoke (fun st => .ok (st.giveResult (frameSysex cable (bytes.take len)))) st

/-- `WRITE`: the port, the length, then the submission (R115). -/
def write (cable : Cable) (m : List Byte) (s : State) : Except ErrCode State :=
  if s.isOpen = false then .error .notOpen
  else
    match encShort s.cfg cable m with
    | .error e => .error e
    | .ok pkt => submit pkt s

def execWrite (cable : Cable) (m : List Byte) (s : State) : Res := invoke (write cable m) s

/-- `SYSEX_WRITE`: the port, then one submission of all the call's packets (R117). -/
def sysexWrite (cable : Cable) (bytes : List Byte) (s : State) : Except ErrCode State :=
  if s.isOpen = false then .error .notOpen else submit (frameSysex cable bytes) s

def execSysexWrite (cable : Cable) (bytes : List Byte) (s : State) : Res :=
  invoke (sysexWrite cable bytes) s

/-- `SEND_RAW`: the port, the length, then the bytes as given; `cable` has no effect (R116). -/
def sendRaw (_cable : Cable) (framed : List Byte) (s : State) : Except ErrCode State :=
  if s.isOpen = false then .error .notOpen
  else if framed.length % 4 ≠ 0 then .error .invalidRawLength
  else submit framed s

def execSendRaw (cable : Cable) (framed : List Byte) (s : State) : Res :=
  invoke (sendRaw cable framed) s

end Sys2Proof.Machine
end

