-- ==== Sys2Proof/Machine/Decoder.lean ====
section
/-! DEFINITION. The Inbound Decoder: one effect and one meaning per packet row, and `DECODE_CHUNK`
(43_decode.md). The effect is what a packet does inside a chunk; the meaning runs it as one operation. -/

namespace Sys2Proof.Machine

/-- `emit Msg(cable, bytes)` (R198). -/
def emitMsg (cable : Cable) (bytes : List Byte) (s : State) : State := s.emit (.msg cable bytes)

/-- A packet's effect as an operation of its own. -/
def runPacket (effect : State → State) (s : State) : Res := invoke (fun s => .ok (effect s)) s

/-- `RX_CIN0` (R181). -/
def rxCin0 (cable : Cable) (p1 p2 p3 : Byte) : State → State :=
  emitMsg cable [p1, p2, p3]

def execRxCin0 (cable : Cable) (p1 p2 p3 : Byte) (s : State) : Res :=
  runPacket (rxCin0 cable p1 p2 p3) s

/-- `RX_CIN1` (R182). -/
def rxCin1 (cable : Cable) (p1 p2 p3 : Byte) : State → State :=
  emitMsg cable [p1, p2, p3]

def execRxCin1 (cable : Cable) (p1 p2 p3 : Byte) (s : State) : Res :=
  runPacket (rxCin1 cable p1 p2 p3) s

/-- `RX_CIN2` (R183). -/
def rxCin2 (cable : Cable) (p1 p2 _p3 : Byte) : State → State :=
  emitMsg cable [p1, p2]

def execRxCin2 (cable : Cable) (p1 p2 p3 : Byte) (s : State) : Res :=
  runPacket (rxCin2 cable p1 p2 p3) s

/-- `RX_CIN3` (R184). -/
def rxCin3 (cable : Cable) (p1 p2 p3 : Byte) : State → State :=
  emitMsg cable [p1, p2, p3]

def execRxCin3 (cable : Cable) (p1 p2 p3 : Byte) (s : State) : Res :=
  runPacket (rxCin3 cable p1 p2 p3) s

/-- `RX_CIN4` (R185). -/
def rxCin4 (cable : Cable) (p1 p2 p3 : Byte) : State → State :=
  sxAppend cable p1 p2 p3

def execRxCin4 (cable : Cable) (p1 p2 p3 : Byte) (s : State) : Res :=
  runPacket (rxCin4 cable p1 p2 p3) s

/-- `RX_CIN5_F6` (R186). -/
def rxCin5F6 (cable : Cable) (_p2 _p3 : Byte) : State → State :=
  emitMsg cable [0xF6#8]

def execRxCin5F6 (cable : Cable) (p2 p3 : Byte) (s : State) : Res :=
  runPacket (rxCin5F6 cable p2 p3) s

/-- `RX_CIN5_TERM` (R187). -/
def rxCin5Term (cable : Cable) (p1 _p2 _p3 : Byte) : State → State :=
  sxTerm cable [p1]

def execRxCin5Term (cable : Cable) (p1 p2 p3 : Byte) (s : State) : Res :=
  runPacket (rxCin5Term cable p1 p2 p3) s

/-- `RX_CIN6` (R188). -/
def rxCin6 (cable : Cable) (p1 p2 _p3 : Byte) : State → State :=
  sxTerm cable [p1, p2]

def execRxCin6 (cable : Cable) (p1 p2 p3 : Byte) (s : State) : Res :=
  runPacket (rxCin6 cable p1 p2 p3) s

/-- `RX_CIN7` (R189). -/
def rxCin7 (cable : Cable) (p1 p2 p3 : Byte) : State → State :=
  sxTerm cable [p1, p2, p3]

def execRxCin7 (cable : Cable) (p1 p2 p3 : Byte) (s : State) : Res :=
  runPacket (rxCin7 cable p1 p2 p3) s

/-- `RX_CIN8` (R190). -/
def rxCin8 (cable : Cable) (p1 p2 p3 : Byte) : State → State :=
  emitMsg cable [p1, p2, p3]

def execRxCin8 (cable : Cable) (p1 p2 p3 : Byte) (s : State) : Res :=
  runPacket (rxCin8 cable p1 p2 p3) s

/-- `RX_CIN9` (R191). -/
def rxCin9 (cable : Cable) (p1 p2 p3 : Byte) : State → State :=
  emitMsg cable [p1, p2, p3]

def execRxCin9 (cable : Cable) (p1 p2 p3 : Byte) (s : State) : Res :=
  runPacket (rxCin9 cable p1 p2 p3) s

/-- `RX_CINA` (R192). -/
def rxCinA (cable : Cable) (p1 p2 p3 : Byte) : State → State :=
  emitMsg cable [p1, p2, p3]

def execRxCinA (cable : Cable) (p1 p2 p3 : Byte) (s : State) : Res :=
  runPacket (rxCinA cable p1 p2 p3) s

/-- `RX_CINB` (R193). -/
def rxCinB (cable : Cable) (p1 p2 p3 : Byte) : State → State :=
  emitMsg cable [p1, p2, p3]

def execRxCinB (cable : Cable) (p1 p2 p3 : Byte) (s : State) : Res :=
  runPacket (rxCinB cable p1 p2 p3) s

/-- `RX_CINC` (R194). -/
def rxCinC (cable : Cable) (p1 p2 _p3 : Byte) : State → State :=
  emitMsg cable [p1, p2]

def execRxCinC (cable : Cable) (p1 p2 p3 : Byte) (s : State) : Res :=
  runPacket (rxCinC cable p1 p2 p3) s

/-- `RX_CIND` (R195). -/
def rxCinD (cable : Cable) (p1 p2 _p3 : Byte) : State → State :=
  emitMsg cable [p1, p2]

def execRxCinD (cable : Cable) (p1 p2 p3 : Byte) (s : State) : Res :=
  runPacket (rxCinD cable p1 p2 p3) s

/-- `RX_CINE` (R196). -/
def rxCinE (cable : Cable) (p1 p2 p3 : Byte) : State → State :=
  emitMsg cable [p1, p2, p3]

def execRxCinE (cable : Cable) (p1 p2 p3 : Byte) (s : State) : Res :=
  runPacket (rxCinE cable p1 p2 p3) s

/-- `RX_CINF` (R197). -/
def rxCinF (cable : Cable) (p1 _p2 _p3 : Byte) : State → State :=
  emitMsg cable [p1]

def execRxCinF (cable : Cable) (p1 p2 p3 : Byte) (s : State) : Res :=
  runPacket (rxCinF cable p1 p2 p3) s

/-- A packet's effect by the row R85 selects (R180). -/
def packetEffect (p : Packet) : State → State :=
  match rxRow p.cin p.p1 with
  | .cin0 => rxCin0 p.cable p.p1 p.p2 p.p3
  | .cin1 => rxCin1 p.cable p.p1 p.p2 p.p3
  | .cin2 => rxCin2 p.cable p.p1 p.p2 p.p3
  | .cin3 => rxCin3 p.cable p.p1 p.p2 p.p3
  | .cin4 => rxCin4 p.cable p.p1 p.p2 p.p3
  | .cin5F6 => rxCin5F6 p.cable p.p2 p.p3
  | .cin5Term => rxCin5Term p.cable p.p1 p.p2 p.p3
  | .cin6 => rxCin6 p.cable p.p1 p.p2 p.p3
  | .cin7 => rxCin7 p.cable p.p1 p.p2 p.p3
  | .cin8 => rxCin8 p.cable p.p1 p.p2 p.p3
  | .cin9 => rxCin9 p.cable p.p1 p.p2 p.p3
  | .cinA => rxCinA p.cable p.p1 p.p2 p.p3
  | .cinB => rxCinB p.cable p.p1 p.p2 p.p3
  | .cinC => rxCinC p.cable p.p1 p.p2 p.p3
  | .cinD => rxCinD p.cable p.p1 p.p2 p.p3
  | .cinE => rxCinE p.cable p.p1 p.p2 p.p3
  | .cinF => rxCinF p.cable p.p1 p.p2 p.p3

/-- The chunk loop from cursor `off` with `k` packets left. The cursor advances by 4 after every packet
(10_state.md R26); a fault ends the loop at once (R201). -/
def decodeFrom (f : RxIdx) : Nat → Nat → State → State
  | 0, _, s => s
  | k + 1, off, s =>
    let t := packetEffect (s.rxPacket f off) s
    if t.fault.isSome then t else decodeFrom f k (off + 4) t

/-- `DECODE_CHUNK(f, len)` (R180). -/
def decodeChunk (f : RxIdx) (len : Nat) (s : State) : State := decodeFrom f (len / 4) 0 s

/-- `DECODE_CHUNK` invoked on its own. Beyond the buffer there is nothing to read: it stops
(20_memory.md R50; notes/assumptions/11.md). -/
def execDecodeChunk (f : RxIdx) (len : Nat) (s : State) : Res :=
  if s.fault = none ∧ s.cfg.rxBufSize < len then .fault .rxBufferRange
  else invoke (fun s => .ok (decodeChunk f len s)) s

end Sys2Proof.Machine
end

