-- ==== Sys2Proof/Machine/RxHandoff.lean ====
section
/-! DEFINITION. The RX Double-Buffer Handoff: `RX_COMPLETE` (42_rxhandoff.md). -/

namespace Sys2Proof.Machine

/-- A successful completion with a good length: fill, swap, re-arm, decode, in this order (R160). -/
def rxAccept (data : List Byte) (s : State) : State :=
  let f := s.rxActive
  let t := (s.writeRx f data).setRxActive (otherIdx f)
  decodeChunk f data.length (t.armIn t.rxActive)

/-- `RX_COMPLETE` once the notification has been taken from the transport (R160 to R163). -/
def rxComplete (status : XferStatus) (data : List Byte) (s : State) : Except ErrCode State :=
  if s.isOpen = false then .ok s
  else
    match status with
    | .success =>
      if data.length % 4 ≠ 0 ∨ s.cfg.rxBufSize < data.length then .ok (s.latch .badChunkLength)
      else .ok (rxAccept data s)
    | .aborted => .ok s
    | .waiting => .ok s
    | .other => .error .transferError

/-- `RX_COMPLETE`. On an open port without a latched fault (60_exceptions.md R273, R276) a notification of
a request the transport does not hold is no move (R166; notes/assumptions/13.md). -/
def execRxComplete (status : XferStatus) (data : List Byte) (s : State) : Res :=
  if s.fault = none ∧ s.isOpen = true ∧ s.rxOwed = false then .refused .noMove
  else invoke (rxComplete status data) s.rxNotified

end Sys2Proof.Machine
end

