-- ==== Sys2Proof/Machine/Dispatch.lean ====
section
/-! DEFINITION. The dispatch: one arm per constructor of Instr. -/

namespace Sys2Proof.Machine

def exec (i : Instr) (s : State) : Host.Outcome State Fault Refusal :=
  match i with
  | .rxCin0 cable p1 p2 p3 => Sys2Proof.Machine.execRxCin0 cable p1 p2 p3 s
  | .rxCin1 cable p1 p2 p3 => Sys2Proof.Machine.execRxCin1 cable p1 p2 p3 s
  | .rxCin2 cable p1 p2 p3 => Sys2Proof.Machine.execRxCin2 cable p1 p2 p3 s
  | .rxCin3 cable p1 p2 p3 => Sys2Proof.Machine.execRxCin3 cable p1 p2 p3 s
  | .rxCin4 cable p1 p2 p3 => Sys2Proof.Machine.execRxCin4 cable p1 p2 p3 s
  | .rxCin5F6 cable p2 p3 => Sys2Proof.Machine.execRxCin5F6 cable p2 p3 s
  | .rxCin5Term cable p1 p2 p3 => Sys2Proof.Machine.execRxCin5Term cable p1 p2 p3 s
  | .rxCin6 cable p1 p2 p3 => Sys2Proof.Machine.execRxCin6 cable p1 p2 p3 s
  | .rxCin7 cable p1 p2 p3 => Sys2Proof.Machine.execRxCin7 cable p1 p2 p3 s
  | .rxCin8 cable p1 p2 p3 => Sys2Proof.Machine.execRxCin8 cable p1 p2 p3 s
  | .rxCin9 cable p1 p2 p3 => Sys2Proof.Machine.execRxCin9 cable p1 p2 p3 s
  | .rxCinA cable p1 p2 p3 => Sys2Proof.Machine.execRxCinA cable p1 p2 p3 s
  | .rxCinB cable p1 p2 p3 => Sys2Proof.Machine.execRxCinB cable p1 p2 p3 s
  | .rxCinC cable p1 p2 p3 => Sys2Proof.Machine.execRxCinC cable p1 p2 p3 s
  | .rxCinD cable p1 p2 p3 => Sys2Proof.Machine.execRxCinD cable p1 p2 p3 s
  | .rxCinE cable p1 p2 p3 => Sys2Proof.Machine.execRxCinE cable p1 p2 p3 s
  | .rxCinF cable p1 p2 p3 => Sys2Proof.Machine.execRxCinF cable p1 p2 p3 s
  | .encShortPc cable status data => Sys2Proof.Machine.execEncShortPc cable status data s
  | .encShortSpp cable status data => Sys2Proof.Machine.execEncShortSpp cable status data s
  | .encShortSc1 cable status data => Sys2Proof.Machine.execEncShortSc1 cable status data s
  | .encShortDefault cable status data => Sys2Proof.Machine.execEncShortDefault cable status data s
  | .encSysexCont cable g0 g1 g2 => Sys2Proof.Machine.execEncSysexCont cable g0 g1 g2 s
  | .encSysexEnd1 cable g0 => Sys2Proof.Machine.execEncSysexEnd1 cable g0 s
  | .encSysexEnd2 cable g0 g1 => Sys2Proof.Machine.execEncSysexEnd2 cable g0 g1 s
  | .encSysexEnd3 cable g0 g1 g2 => Sys2Proof.Machine.execEncSysexEnd3 cable g0 g1 g2 s
  | .encShort cable m len => Sys2Proof.Machine.execEncShort cable m len s
  | .encSysex cable bytes len => Sys2Proof.Machine.execEncSysex cable bytes len s
  | .write cable m => Sys2Proof.Machine.execWrite cable m s
  | .sysexWrite cable bytes => Sys2Proof.Machine.execSysexWrite cable bytes s
  | .sendRaw cable framed => Sys2Proof.Machine.execSendRaw cable framed s
  | .submit f => Sys2Proof.Machine.execSubmit f s
  | .handover => Sys2Proof.Machine.execHandover s
  | .txComplete status => Sys2Proof.Machine.execTxComplete status s
  | .rxComplete status data => Sys2Proof.Machine.execRxComplete status data s
  | .decodeChunk f len => Sys2Proof.Machine.execDecodeChunk f len s
  | .sxAppend c b1 b2 b3 => Sys2Proof.Machine.execSxAppend c b1 b2 b3 s
  | .sxBufreq c need => Sys2Proof.Machine.execSxBufreq c need s
  | .sxTerm c n bs => Sys2Proof.Machine.execSxTerm c n bs s
  | .sxReset => Sys2Proof.Machine.execSxReset s
  | .portOpen => Sys2Proof.Machine.execPortOpen s
  | .portClose => Sys2Proof.Machine.execPortClose s
  | .reset => Sys2Proof.Machine.execReset s

end Sys2Proof.Machine
end

