-- ==== Sys2Proof/Machine/Step.lean ====
section
/-! DEFINITION. The step: take the next command, decode it, run it (20_memory.md R60). -/

namespace Sys2Proof.Machine

/-- With no command the block does nothing (10_state.md R36). -/
def step (s : State) : Host.Outcome State Fault Refusal :=
  match s.fetch with
  | none => .next s
  | some (cmd, t) => exec (decode cmd) t

/-- A word of the opcode table placed in front of the inbox (notes/assumptions/1.md, 12.md); a pattern of
no format is no command and places nothing. -/
def State.withFetchWord (s : State) (nbits w : Nat) : State :=
  match commandOfTableWord nbits w with
  | .ok cmd => { s with inbox := cmd :: s.inbox }
  | .error _ => s

end Sys2Proof.Machine
end

