-- ==== Sys2Proof/Safety.lean ====
section
/-! DEFINITION. Safety: the agents and what each may invoke, the invariants of 10_state.md R37, the
idle state, and the words the claims use. -/

namespace Sys2Proof

/-- The four bytes of a packet, `p0` first (20_memory.md R51). -/
def Packet.bytes (p : Packet) : List Byte := [p.p0, p.p1, p.p2, p.p3]

/-- Whether a packet row is a short message (43_decode.md R199). -/
def RxRow.short : RxRow → Bool
  | .cin4 | .cin5Term | .cin6 | .cin7 => false
  | .cin0 | .cin1 | .cin2 | .cin3 | .cin5F6 | .cin8 | .cin9 | .cinA | .cinB | .cinC | .cinD | .cinE
  | .cinF => true

/-- How many payload bytes a short message's row delivers (30_encoding.md R85). -/
def RxRow.shortLen : RxRow → Nat
  | .cin5F6 | .cinF => 1
  | .cin2 | .cinC | .cinD => 2
  | .cin0 | .cin1 | .cin3 | .cin8 | .cin9 | .cinA | .cinB | .cinE => 3
  | .cin4 | .cin5Term | .cin6 | .cin7 => 0

end Sys2Proof

namespace Sys2Proof.Machine

/-! ### Agents (00_scope.md R6; 60_exceptions.md R282) -/

inductive Agent
  | producer
  | transport
  | consumer
  | block
  deriving DecidableEq, Repr

/-- Who invokes an instruction. The consumer invokes none (70_reset_and_hazards.md R333); the rows and
internal functions are the block's own, run inside an agent's operation (R5); `RESET` comes from any
context (45_port.md R254). -/
def agentsOf : Instr → List Agent
  | .write _ _ | .sysexWrite _ _ | .sendRaw _ _ => [.producer]
  | .txComplete _ | .rxComplete _ _ | .portOpen | .portClose => [.transport]
  | .reset => [.producer, .transport]
  | .rxCin0 _ _ _ _ | .rxCin1 _ _ _ _ | .rxCin2 _ _ _ _ | .rxCin3 _ _ _ _ | .rxCin4 _ _ _ _
  | .rxCin5F6 _ _ _ | .rxCin5Term _ _ _ _ | .rxCin6 _ _ _ _ | .rxCin7 _ _ _ _ | .rxCin8 _ _ _ _
  | .rxCin9 _ _ _ _ | .rxCinA _ _ _ _ | .rxCinB _ _ _ _ | .rxCinC _ _ _ _ | .rxCinD _ _ _ _
  | .rxCinE _ _ _ _ | .rxCinF _ _ _ _ => [.block]
  | .encShortPc _ _ _ | .encShortSpp _ _ _ | .encShortSc1 _ _ _ | .encShortDefault _ _ _ => [.block]
  | .encSysexCont _ _ _ _ | .encSysexEnd1 _ _ | .encSysexEnd2 _ _ _ | .encSysexEnd3 _ _ _ _ => [.block]
  | .encShort _ _ _ | .encSysex _ _ _ | .submit _ | .handover | .decodeChunk _ _ => [.block]
  | .sxAppend _ _ _ _ | .sxBufreq _ _ | .sxTerm _ _ _ | .sxReset => [.block]

/-- An operation an agent outside the block invokes. -/
def agentOp (i : Instr) : Bool := agentsOf i != [.block]

/-- A command that is an agent's operation. -/
def agentCommand (c : Command) : Bool := agentOp (decode c)

/-- The transport's duty (42_rxhandoff.md R166; 70_reset_and_hazards.md R333): on an open port it notifies
only a request it owes. -/
def transportMove (s : State) : Instr → Bool
  | .txComplete st => s.txOwed st
  | .rxComplete _ _ => s.rxOwed
  | _ => true

/-! ### Invariants (10_state.md R37) -/

/-- I5: an empty session is exactly the empty record (10_state.md R22). -/
abbrev Session.Ok (x : Session) : Prop := x.buf = none → x.pos = 0 ∧ x.capLeft = 0

/-- I3, of one event. -/
def Event.submitOk (p : Params) : Event → Prop
  | .submitOut bytes => 1 ≤ bytes.length ∧ bytes.length ≤ p.maxXfer ∧ bytes.length % 4 = 0
  | _ => True

/-- What every step keeps, whichever instruction it runs: I1, I2, I3, I5, that `pos + cap_left` of a
session is the capacity the consumer gave with its buffer (10_state.md R22), the sizes of the RX buffers,
the canonical form of SX, and that the armed buffer is the active one (10_state.md R30). -/
structure StateInv (s : State) : Prop where
  params : s.cfg.Valid
  queue_fits : s.txq.length ≤ s.cfg.qCap
  queue_packets : s.txq.length % 4 = 0
  queue_idle : s.sending = false → s.txq = []
  submits : ∀ e ∈ s.trace, Event.submitOk s.cfg e
  sessions : ∀ c, (s.session c).Ok
  lent : ∀ c a, (s.session c).buf = some a →
    ∃ prev, Event.bufReq c prev ⟨a, (s.session c).pos + (s.session c).capLeft⟩ ∈ s.trace
  rxbuf_size : ∀ f, (s.rxbuf f).length = s.cfg.rxBufSize
  memory : s.sxmem.wf
  armed : ∀ f, s.rxArmed = some f → f = s.rxActive

/-- What every step keeps while only agents' operations wait in the inbox (00_scope.md R6): I6, one
transfer in flight (I4), and that a session with a buffer holds at least one byte (44_sysex.md R222). -/
structure RunInv (s : State) : Prop where
  base : StateInv s
  closed : s.isOpen = false → s.sending = false ∧ s.txq = [] ∧ ∀ c, s.session c = Session.empty
  in_flight : s.isOpen = true → s.sending = false → s.txInflight = none
  started : ∀ c, (s.session c).buf.isSome → 1 ≤ (s.session c).pos
  agents : ∀ c ∈ s.inbox, agentCommand c = true

/-- The idle state (70_reset_and_hazards.md R334). -/
abbrev State.Idle (s : State) : Prop :=
  s.fault = none ∧ s.sending = false ∧ s.txq = [] ∧ s.sx = Vector.replicate 16 Session.empty ∧
    s.txInflight = none

/-! ### Words of the claims -/

/-- The bytes of all `SubmitOut` events, in emission order (41_txflow.md R147). -/
def sentBytes : List Event → List Byte
  | [] => []
  | .submitOut bytes :: es => bytes ++ sentBytes es
  | _ :: es => sentBytes es

/-- How many `SubmitOut` events there are (41_txflow.md R145). -/
def submitCount : List Event → Nat
  | [] => 0
  | .submitOut _ :: es => submitCount es + 1
  | _ :: es => submitCount es

/-- The bytes an instruction passes to `SUBMIT` when it returns Ok. -/
def framedBy (p : Params) : Instr → List Byte
  | .write c (s :: data) => frameShort p c s data
  | .sysexWrite c bytes => frameSysex c bytes
  | .sendRaw _ framed => framed
  | .submit f => f
  | _ => []

/-- The event of a short-message packet: its cable and its first payload bytes (43_decode.md R198). -/
def shortMsg (p : Packet) : Event :=
  .msg p.cable ([p.p1, p.p2, p.p3].take (rxRow p.cin p.p1).shortLen)

/-- The packets of the first `4 * k` bytes of an RX buffer from offset `off`, in buffer order. -/
def State.packetsFrom (s : State) (f : RxIdx) : Nat → Nat → List Packet
  | 0, _ => []
  | k + 1, off => s.rxPacket f off :: s.packetsFrom f k (off + 4)

/-- Instructions in order, stopping when one has latched a fault (43_decode.md R201). -/
def runInOrder : List Instr → State → Res
  | [], s => .next { s with outcome := .ok }
  | i :: is, s =>
    match exec i s with
    | .next t => if t.fault.isSome then .next t else runInOrder is t
    | .fault r => .fault r
    | .refused r => .refused r

/-- The lent range of a session (20_memory.md R58). -/
def Session.lends (x : Session) (y : Nat) : Prop :=
  ∃ a, x.buf = some a ∧ a ≤ y ∧ y < a + x.pos + x.capLeft

/-- No other session's buffer covers the address: what the consumer's duty to lend disjoint buffers gives
for it (70_reset_and_hazards.md R322). -/
def State.aloneAt (s : State) (c : Cable) (y : Nat) : Prop := ∀ d, d ≠ c → ¬ (s.session d).lends y

/-- What may stand from `a` upward once cable `c` has stored `bs` there: those bytes, and any value where
another session's buffer overlaps (20_memory.md R65; 93_implementation_defined.md U19). -/
def StoredAs (s : State) (c : Cable) (a : Nat) (bs vs : List Byte) : Prop :=
  vs.length = bs.length ∧ ∀ k, k < bs.length → s.aloneAt c (a + k) → vs[k]? = bs[k]?

/-- The state once the transport has delivered the notification an instruction carries: it no longer
holds the request (10_state.md R29, R30). -/
def delivered : Instr → State → State
  | .txComplete _, s => s.txNotified
  | .rxComplete _ _, s => s.rxNotified
  | _, s => s

/-- The state after a successful submission of the framed bytes `f` (41_txflow.md R140, R141): queued
while sending, else `sending` set and the oldest `min(|txq|, MAX_XFER)` bytes handed over. -/
def submitted (f : List Byte) (s : State) : State :=
  let q := s.txq ++ f
  let n := min q.length s.cfg.maxXfer
  if s.sending then { s with txq := q }
  else
    { s with
      sending := true
      txq := q.drop n
      trace := s.trace ++ [.submitOut (q.take n)]
      txInflight := some (q.take n) }

/-- The payload of a SysEx start or continue: its cable and the three bytes to append. -/
def appendBytes : Instr → Option (Cable × List Byte)
  | .rxCin4 c p1 p2 p3 => some (c, [p1, p2, p3])
  | .sxAppend c b1 b2 b3 => some (c, [b1, b2, b3])
  | _ => none

/-- The payload of a SysEx termination: its cable and the last bytes (43_decode.md R187 to R189). -/
def termBytes : Instr → Option (Cable × List Byte)
  | .rxCin5Term c p1 _ _ => some (c, [p1])
  | .rxCin6 c p1 p2 _ => some (c, [p1, p2])
  | .rxCin7 c p1 p2 p3 => some (c, [p1, p2, p3])
  | .sxTerm c n bs => some (c, bs.take n)
  | _ => none

/-- The bytes an instruction of its own stores in SX, if any, with the cable whose buffer takes them. -/
def storedBytes (i : Instr) : Option (Cable × List Byte) := (appendBytes i).or (termBytes i)

/-- Where those bytes go: behind the bytes of the active buffer, or at the start of the buffer the
consumer answers with, when the session has no buffer or too little room (44_sysex.md R221 to R224). -/
def storeAddr (c : Cable) (n : Nat) (s : State) : Nat :=
  let x := s.session c
  match x.buf with
  | none => s.nextAnswer.buf
  | some a => if x.capLeft < n then s.nextAnswer.buf else a + x.pos

/-- The cable of an event that carries one (00_scope.md R8). -/
def eventCable : Event → Option Cable
  | .bufReq c _ _ => some c
  | .msg c _ => some c
  | .sysExMsg c _ _ => some c
  | .submitOut _ | .armIn _ _ | .portOpened | .portClosed | .txDone => none

/-- When the decoder gives back exactly the message that was written (40_packetizer.md R127). `n` is the
number of message bytes, the status byte included. -/
def roundTrips (p : Params) (s : Byte) (data : List Byte) : Prop :=
  let v := s.toNat
  let n := data.length + 1
  (((0x80 ≤ v ∧ v ≤ 0xBF) ∨ (0xE0 ≤ v ∧ v ≤ 0xEF) ∨ v ≤ 0x1F ∨ (0x30 ≤ v ∧ v ≤ 0x3F)) ∧ n = 3) ∨
  (((0xC0 ≤ v ∧ v ≤ 0xDF) ∨ (0x20 ≤ v ∧ v ≤ 0x2F)) ∧ n = 2) ∨
  ((v = 0xF6 ∨ 0xF8 ≤ v ∨ v = 0xF0 ∨ v = 0xF1 ∨ v = 0xF3) ∧ n = 1) ∨
  (v = 0xF2 ∧ n = 3 ∧ (p.sppLen = .three ∨ data.getD 1 0#8 = 0#8))

end Sys2Proof.Machine
end

