-- ==== Sys2Proof/Certificates/Slice0/Obligations.lean ====
section
/-! DEFINITION. The statements for the provers, one Prop each, in the order of OBLIGATIONS.json. -/

open Sys2Proof Sys2Proof.Machine

/-! ### Reset and the step -/

/-- 10_state.md R36: the value of every element after reset. The RX buffers' contents are unspecified
there and nothing is said of them here. -/
def Obligations.ResetStateHasSpecValues : Prop :=
  State.reset.isOpen = false ∧ State.reset.sending = false ∧ State.reset.txq = [] ∧
  State.reset.rxActive = .buf0 ∧ (∀ c, State.reset.session c = { buf := none, pos := 0, capLeft := 0 }) ∧
  State.reset.fault = none ∧ State.reset.txInflight = none ∧ State.reset.rxArmed = none

/-- 45_port.md R254: RESET completes in every state, a latched fault included; the RX buffers keep
their size and their contents are free values (log entry 5). It is the only operation accepted while a
fault is latched: every other one is refused without a change of the block's state. The model's choices in
that clause: a delivered notification has left the transport (log entry 8), and rows and internal
functions run on their own are refused like operations (log entry 9). -/
def Obligations.ResetFromAnyState : Prop :=
  (∀ s : State, ∃ r0 r1 : List Byte, r0.length = s.cfg.rxBufSize ∧ r1.length = s.cfg.rxBufSize ∧
    exec .reset s = .next
      { s with
        isOpen := false, sending := false, txq := [], rxActive := .buf0, rxbuf0 := r0, rxbuf1 := r1,
        sx := Vector.replicate 16 { buf := none, pos := 0, capLeft := 0 }, fault := none,
        txInflight := none, rxArmed := none,
        draws := s.draws + 1, outcome := .ok }) ∧
  (∀ (i : Instr) (s : State) (cause : FaultCause), i ≠ .reset → s.fault = some cause →
    exec i s = .next { delivered i s with outcome := .fault cause })

/-- The step takes the next command and runs the instruction it decodes to (every command is one: log
entry 16); with no command nothing happens (10_state.md R36). That commands wait in an inbox is the model's
choice (log entry 1). -/
def Obligations.StepRunsDecodedCommand : Prop :=
  (∀ (s : State) cmd rest, s.inbox = cmd :: rest →
    step s = exec (decode cmd) { s with inbox := rest }) ∧
  (∀ s : State, s.inbox = [] → step s = .next s)

/-- A 32-bit word placed for fetching runs as the packet it displays (30_encoding.md R95), an 8-bit word
as the status byte with its operands zero (the model's choice, log entry 12). -/
def Obligations.FetchedWordRunsNext : Prop :=
  ∀ (s : State) (w : Nat),
    step (s.withFetchWord 32 w) = exec (decodePacket (Packet.ofDisplayWord w)) s ∧
    step (s.withFetchWord 8 w) =
      exec ((statusRow (BitVec.ofNat 8 w)).toInstr 0#4 (BitVec.ofNat 8 w) []) s

/-! ### Encoding -/

/-- Nine words written out from 30_encoding.md R80, R85 and R86 and the vectors of 95_test_vectors.md 2.1
and 2.6, and a 16-bit one. The model's choices: an 8-bit word is a status byte on cable 0 with no data (log
entry 12), and a word of another width is no command (log entries 12 and 16). -/
def Obligations.SampleWordsDecode : Prop :=
  decodeTableWord 32 0x09903C7F = some (.rxCin9 0x0#4 0x90#8 0x3C#8 0x7F#8) ∧
  decodeTableWord 32 0xA4AABBCC = some (.rxCin4 0xA#4 0xAA#8 0xBB#8 0xCC#8) ∧
  decodeTableWord 32 0xA5F6BBCC = some (.rxCin5F6 0xA#4 0xBB#8 0xCC#8) ∧
  decodeTableWord 32 0xA5AABBCC = some (.rxCin5Term 0xA#4 0xAA#8 0xBB#8 0xCC#8) ∧
  decodeTableWord 32 0x37101 = some (.rxCin0 0x0#4 0x03#8 0x71#8 0x01#8) ∧
  decodeTableWord 8 0xC5 = some (.encShortPc 0x0#4 0xC5#8 []) ∧
  decodeTableWord 8 0xF2 = some (.encShortSpp 0x0#4 0xF2#8 []) ∧
  decodeTableWord 8 0xF6 = some (.encShortSc1 0x0#4 0xF6#8 []) ∧
  decodeTableWord 8 0x90 = some (.encShortDefault 0x0#4 0x90#8 []) ∧
  decodeTableWord 16 0 = none

/-- Decoding what the encoder wrote gives the instruction back, for all 42 rows and every operand. -/
def Obligations.EncodeThenDecodeIsIdentity : Prop :=
  ∀ i : Instr, i.wellFormed = true → ∃ cmd, encode i = some cmd ∧ decode cmd = i

/-- Each command has one meaning: its instruction is well formed and encodes to the command again. -/
def Obligations.DecodeThenEncodeIsIdentity : Prop :=
  ∀ cmd : Command, (decode cmd).wellFormed = true ∧ encode (decode cmd) = some cmd

/-- 30_encoding.md R95: a packet selects the table's row for which `W & mask = match`, by priority; so
all 2^32 patterns decode to one row (R89). -/
def Obligations.DecoderFollowsMaskMatchTable : Prop :=
  ∀ p : Packet, tableRow p = some (rxRow p.cin p.p1) ∧
    (∀ r ∈ packetTable, p.displayWord &&& r.mask = r.pattern →
      r.row = rxRow p.cin p.p1 ∨ (r.row = .cin5Term ∧ rxRow p.cin p.p1 = .cin5F6))

/-- 30_encoding.md R83, R84: the first byte holds the cable in its high nibble and the CIN in its low
nibble, both ways. -/
def Obligations.HeaderByteNibbles : Prop :=
  (∀ (c : Cable) (n : Nibble), (headerByte c n).toNat = 16 * c.toNat + n.toNat ∧
    hiNibble (headerByte c n) = c ∧ loNibble (headerByte c n) = n) ∧
  (∀ b : Byte, headerByte (hiNibble b) (loNibble b) = b) ∧
  (∀ p : Packet, p.cable.toNat = p.p0.toNat / 16 ∧ p.cin.toNat = p.p0.toNat % 16) ∧
  (∀ p : Packet, p.displayWord.toNat =
    p.p0.toNat * 2 ^ 24 + p.p1.toNat * 2 ^ 16 + p.p2.toNat * 2 ^ 8 + p.p3.toNat)

/-- 30_encoding.md R86, R87: the class of every status byte. -/
def Obligations.StatusClassRanges : Prop :=
  ∀ s : Byte, statusRow s =
    if 0xC0 ≤ s.toNat ∧ s.toNat ≤ 0xDF then .pc
    else if s.toNat = 0xF2 then .spp
    else if 0xF4 ≤ s.toNat ∧ s.toNat ≤ 0xF7 then .sc1
    else .dflt

/-! ### The packetizer -/

/-- 40_packetizer.md R110, R119: the length check first, then one packet of the class's CIN with the
first `min(len, L)` message bytes. -/
def Obligations.EncShortReturnsOnePacket : Prop :=
  ∀ (s : State) (c : Cable) (m : List Byte) (len : Nat), s.fault = none → len ≤ m.length →
    ((len = 0 ∨ 3 < len) →
      exec (.encShort c m len) s = .next { s with outcome := .err .invalidMessageLength }) ∧
    (1 ≤ len → len ≤ 3 →
      let m0 := m.getD 0 0#8
      let cin : Nibble :=
        if m0 &&& 0xE0#8 = 0xC0#8 then 0x2#4 else if m0 = 0xF2#8 then 0x3#4
        else if m0 &&& 0xFC#8 = 0xF4#8 then 0x5#4 else hiNibble m0
      let L : Nat :=
        if m0 &&& 0xE0#8 = 0xC0#8 then 2 else if m0 = 0xF2#8 then s.cfg.sppLen.toNat
        else if m0 &&& 0xFC#8 = 0xF4#8 then 1 else 3
      let q (i : Nat) : Byte := if i < min len L then m.getD i 0#8 else 0#8
      exec (.encShort c m len) s =
        .next { s with result := [headerByte c cin, q 0, q 1, q 2], outcome := .ok })

/-- 40_packetizer.md R111 to R114: the class of a status byte, its condition and its packet. That a row
run on its own with more than two data bytes returns the length error of R119 is the model's reading (log
entry 9). -/
def Obligations.StatusRowsReturnTheirPacket : Prop :=
  ∀ (s : State) (c : Cable) (m0 : Byte) (data : List Byte),
    decode (.status m0 c data) =
      (if m0 &&& 0xE0#8 = 0xC0#8 then .encShortPc c m0 data
      else if m0 = 0xF2#8 then .encShortSpp c m0 data
      else if m0 &&& 0xFC#8 = 0xF4#8 then .encShortSc1 c m0 data
      else .encShortDefault c m0 data) ∧
    (s.fault = none → 2 < data.length →
      ∀ i ∈ [Instr.encShortPc c m0 data, .encShortSpp c m0 data, .encShortSc1 c m0 data,
        .encShortDefault c m0 data],
        exec i s = .next { s with outcome := .err .invalidMessageLength }) ∧
    (s.fault = none → data.length ≤ 2 →
      exec (.encShortPc c m0 data) s =
        .next { s with result := [headerByte c 0x2#4, m0, data.getD 0 0#8, 0#8], outcome := .ok } ∧
      exec (.encShortSpp c m0 data) s =
        .next { s with
          result := [headerByte c 0x3#4, m0, data.getD 0 0#8,
            if s.cfg.sppLen = .three then data.getD 1 0#8 else 0#8], outcome := .ok } ∧
      exec (.encShortSc1 c m0 data) s =
        .next { s with result := [headerByte c 0x5#4, m0, 0#8, 0#8], outcome := .ok } ∧
      exec (.encShortDefault c m0 data) s =
        .next { s with
          result := [headerByte c (hiNibble m0), m0, data.getD 0 0#8, data.getD 1 0#8],
          outcome := .ok })

/-- 30_encoding.md R88; 40_packetizer.md R121 to R124: the row of each group of a SysEx fragment, by
position and size, and its packet. -/
def Obligations.GroupRowsReturnTheirPacket : Prop :=
  ∀ (s : State) (c : Cable) (g0 g1 g2 : Byte),
    (groupOf false [g0, g1, g2]).map (·.toInstr c) = some (.encSysexCont c g0 g1 g2) ∧
    (groupOf true [g0]).map (·.toInstr c) = some (.encSysexEnd1 c g0) ∧
    (groupOf true [g0, g1]).map (·.toInstr c) = some (.encSysexEnd2 c g0 g1) ∧
    (groupOf true [g0, g1, g2]).map (·.toInstr c) = some (.encSysexEnd3 c g0 g1 g2) ∧
    (∀ g : Group, decode (.group c g) = g.toInstr c) ∧
    (s.fault = none →
      exec (.encSysexCont c g0 g1 g2) s =
        .next { s with result := [headerByte c 0x4#4, g0, g1, g2], outcome := .ok } ∧
      exec (.encSysexEnd1 c g0) s =
        .next { s with result := [headerByte c 0x5#4, g0, 0#8, 0#8], outcome := .ok } ∧
      exec (.encSysexEnd2 c g0 g1) s =
        .next { s with result := [headerByte c 0x6#4, g0, g1, 0#8], outcome := .ok } ∧
      exec (.encSysexEnd3 c g0 g1 g2) s =
        .next { s with result := [headerByte c 0x7#4, g0, g1, g2], outcome := .ok })

/-- 40_packetizer.md R120, R126: ceil(len/3) packets; packet `k` carries bytes 3k, 3k+1, 3k+2, zeros
past the end; every packet but the last has CIN 4, the last 4 plus its group's size. -/
def Obligations.EncSysexFramesGroupsOfThree : Prop :=
  ∀ (s : State) (c : Cable) (bytes : List Byte), s.fault = none →
    ∃ out : List Byte,
      exec (.encSysex c bytes bytes.length) s = .next { s with result := out, outcome := .ok } ∧
      out.length = 4 * ((bytes.length + 2) / 3) ∧
      ∀ k, k < (bytes.length + 2) / 3 →
        out.getD (4 * k) 0#8 = headerByte c
          (if k + 1 < (bytes.length + 2) / 3 then 0x4#4 else BitVec.ofNat 4 (4 + (bytes.length - 3 * k))) ∧
        ∀ j, j < 3 → out.getD (4 * k + 1 + j) 0#8 = bytes.getD (3 * k + j) 0#8

/-- 40_packetizer.md R115: WRITE, its checks in order and its submission. -/
def Obligations.WriteSubmitsItsPacket : Prop :=
  ∀ (s : State) (c : Cable) (m : List Byte),
    (∀ cause, s.fault = some cause → exec (.write c m) s = .next { s with outcome := .fault cause }) ∧
    (s.fault = none →
      (s.isOpen = false → exec (.write c m) s = .next { s with outcome := .err .notOpen }) ∧
      (s.isOpen = true → (m.length = 0 ∨ 3 < m.length) →
        exec (.write c m) s = .next { s with outcome := .err .invalidMessageLength }) ∧
      (s.isOpen = true → ∀ m0 data, m = m0 :: data → data.length ≤ 2 →
        (s.cfg.qCap < s.txq.length + 4 →
          exec (.write c m) s = .next { s with outcome := .err .queueFull }) ∧
        (s.txq.length + 4 ≤ s.cfg.qCap →
          exec (.write c m) s =
            .next { submitted (frameShort s.cfg c m0 data) s with outcome := .ok })))

/-- 40_packetizer.md R117: SYSEX_WRITE, its checks in order and its one submission; an empty call has
no effect (R126). -/
def Obligations.SysexWriteSubmitsAllPackets : Prop :=
  ∀ (s : State) (c : Cable) (bytes : List Byte),
    (∀ cause, s.fault = some cause →
      exec (.sysexWrite c bytes) s = .next { s with outcome := .fault cause }) ∧
    (s.fault = none →
      (s.isOpen = false → exec (.sysexWrite c bytes) s = .next { s with outcome := .err .notOpen }) ∧
      (s.isOpen = true →
        (bytes = [] → exec (.sysexWrite c bytes) s = .next { s with outcome := .ok }) ∧
        (bytes ≠ [] → s.cfg.qCap < s.txq.length + 4 * ((bytes.length + 2) / 3) →
          exec (.sysexWrite c bytes) s = .next { s with outcome := .err .queueFull }) ∧
        (bytes ≠ [] → s.txq.length + 4 * ((bytes.length + 2) / 3) ≤ s.cfg.qCap →
          exec (.sysexWrite c bytes) s =
            .next { submitted (frameSysex c bytes) s with outcome := .ok })))

/-- 40_packetizer.md R116: SEND_RAW, its checks in order; the bytes are queued as given, whatever the
cable operand. -/
def Obligations.SendRawSubmitsBytesAsGiven : Prop :=
  ∀ (s : State) (c : Cable) (framed : List Byte),
    (∀ cause, s.fault = some cause →
      exec (.sendRaw c framed) s = .next { s with outcome := .fault cause }) ∧
    (s.fault = none →
      (s.isOpen = false → exec (.sendRaw c framed) s = .next { s with outcome := .err .notOpen }) ∧
      (s.isOpen = true →
        (framed.length % 4 ≠ 0 →
          exec (.sendRaw c framed) s = .next { s with outcome := .err .invalidRawLength }) ∧
        (framed = [] → exec (.sendRaw c framed) s = .next { s with outcome := .ok }) ∧
        (framed ≠ [] → framed.length % 4 = 0 → s.cfg.qCap < s.txq.length + framed.length →
          exec (.sendRaw c framed) s = .next { s with outcome := .err .queueFull }) ∧
        (framed ≠ [] → framed.length % 4 = 0 → s.txq.length + framed.length ≤ s.cfg.qCap →
          exec (.sendRaw c framed) s = .next { submitted framed s with outcome := .ok })))

/-! ### The flow controller -/

/-- 41_txflow.md R140, R148: SUBMIT, all or nothing; the empty string is a no-op. -/
def Obligations.SubmitAppendsOrHandsOver : Prop :=
  ∀ (s : State) (f : List Byte), s.fault = none →
    (f = [] → exec (.submit f) s = .next { s with outcome := .ok }) ∧
    (f ≠ [] → s.txq.length + f.length ≤ s.cfg.qCap →
      exec (.submit f) s = .next { submitted f s with outcome := .ok }) ∧
    (f ≠ [] → s.cfg.qCap < s.txq.length + f.length →
      exec (.submit f) s = .next { s with outcome := .err .queueFull })

/-- 41_txflow.md R141: HANDOVER gives the oldest `min(|txq|, MAX_XFER)` bytes to the transport. -/
def Obligations.HandoverTakesOldestBytes : Prop :=
  ∀ s : State, s.fault = none → s.txq ≠ [] →
    exec .handover s = .next
      { s with
        txq := s.txq.drop (min s.txq.length s.cfg.maxXfer)
        trace := s.trace ++ [.submitOut (s.txq.take (min s.txq.length s.cfg.maxXfer))]
        txInflight := some (s.txq.take (min s.txq.length s.cfg.maxXfer))
        outcome := .ok }

/-- 41_txflow.md R142: a successful transfer drains the queue or, when it is empty, clears `sending`;
TxDone is emitted when `sending` was set (this statement depends on TxDone, on which R146 advises a claim
not to rest). Refused under a fault, ignored while the port is closed. The transport owes the notification:
it holds the request (70_reset_and_hazards.md R333), or nothing is being sent and `Success` is a no-op
(92_eei_decisions.md D15). The model's choice: the notification has left the transport also when it is
refused or ignored (log entry 8). -/
def Obligations.TxCompleteSuccessDrains : Prop :=
  ∀ s : State,
    (∀ cause, s.fault = some cause → exec (.txComplete .success) s =
      .next { s with txInflight := none, outcome := .fault cause }) ∧
    (s.fault = none → s.isOpen = false → exec (.txComplete .success) s =
      .next { s with txInflight := none, outcome := .ok }) ∧
    (s.fault = none → s.isOpen = true →
      (s.txInflight.isSome = true ∨ s.sending = false) →
      let done : List Event := if s.sending then [.txDone] else []
      let n := min s.txq.length s.cfg.maxXfer
      (s.txq = [] → exec (.txComplete .success) s = .next
        { s with
          sending := false, txInflight := none, trace := s.trace ++ done
          outcome := .ok }) ∧
      (s.txq ≠ [] → exec (.txComplete .success) s = .next
        { s with
          txq := s.txq.drop n
          txInflight := some (s.txq.take n)
          trace := s.trace ++ .submitOut (s.txq.take n) :: done
          outcome := .ok }))

/-- 41_txflow.md R143, R144; 42_rxhandoff.md R162, R163: a status other than success, of a request the
transport holds, changes nothing but that the transport's request is gone; Other is returned as
TransferError. -/
def Obligations.FailedTransfersChangeNothing : Prop :=
  ∀ (s : State) (data : List Byte), s.fault = none → s.isOpen = true →
    (s.txInflight.isSome = true →
      exec (.txComplete .aborted) s =
        .next { s with txInflight := none, outcome := .ok } ∧
      exec (.txComplete .waiting) s =
        .next { s with txInflight := none, outcome := .ok } ∧
      exec (.txComplete .other) s =
        .next { s with txInflight := none, outcome := .err .transferError }) ∧
    (s.rxArmed.isSome = true →
      exec (.rxComplete .aborted data) s =
        .next { s with rxArmed := none, outcome := .ok } ∧
      exec (.rxComplete .waiting data) s =
        .next { s with rxArmed := none, outcome := .ok } ∧
      exec (.rxComplete .other data) s =
        .next { s with rxArmed := none, outcome := .err .transferError })

/-- 60_exceptions.md R276: while the port is closed the producer operations return NotOpen, notifications
of any status are ignored, PORT_CLOSE is a no-op, and PORT_OPEN and RESET act normally (45_port.md R250,
R254). No event but PORT_OPEN's two. The model's choices: an ignored notification has left the transport
and PORT_OPEN drops what the transport was sending (log entry 8), the RX buffers after RESET (log entry 5). -/
def Obligations.ClosedPortRefusesOrIgnores : Prop :=
  ∀ s : State, s.fault = none → s.isOpen = false →
    (∀ (c : Cable) (bs : List Byte),
      exec (.write c bs) s = .next { s with outcome := .err .notOpen } ∧
      exec (.sysexWrite c bs) s = .next { s with outcome := .err .notOpen } ∧
      exec (.sendRaw c bs) s = .next { s with outcome := .err .notOpen }) ∧
    (∀ st data,
      exec (.txComplete st) s =
        .next { s with txInflight := none, outcome := .ok } ∧
      exec (.rxComplete st data) s =
        .next { s with rxArmed := none, outcome := .ok }) ∧
    exec .portClose s = .next { s with outcome := .ok } ∧
    exec .portOpen s = .next
      { s with
        isOpen := true, rxActive := .buf0, txInflight := none, rxArmed := some .buf0
        trace := s.trace ++ [.armIn .buf0 s.cfg.rxBufSize, .portOpened], outcome := .ok } ∧
    (∃ r0 r1 : List Byte, r0.length = s.cfg.rxBufSize ∧ r1.length = s.cfg.rxBufSize ∧
      exec .reset s = .next
        { s with
          isOpen := false, sending := false, txq := [], rxActive := .buf0, rxbuf0 := r0, rxbuf1 := r1
          sx := Vector.replicate 16 { buf := none, pos := 0, capLeft := 0 }, fault := none
          txInflight := none, rxArmed := none
          draws := s.draws + 1, outcome := .ok })

/-- 41_txflow.md R147, one operation at a time: the bytes sent and the bytes queued are those of before
followed by what the operation submitted, in order; an operation that returns an error or a fault adds
none. PORT_CLOSE and RESET discard the queue and are left out, as the rule says. -/
def Obligations.QueueOrderIsFifo : Prop :=
  ∀ (i : Instr) (s t : State), exec i s = .next t → i ≠ .portClose → i ≠ .reset →
    sentBytes t.trace ++ t.txq =
      sentBytes s.trace ++ s.txq ++ (if t.outcome = .ok then framedBy s.cfg i else [])

/-- 41_txflow.md R145: while the transport holds a transfer, a step that is not its notification emits
no SubmitOut; and no step emits two. -/
def Obligations.OneTransferInFlight : Prop :=
  ∀ (s t : State) cmd rest, RunInv s → s.inbox = cmd :: rest → step s = .next t →
    submitCount t.trace ≤ submitCount s.trace + 1 ∧
    (s.txInflight.isSome → (∀ st, decode cmd ≠ .txComplete st) →
      submitCount t.trace = submitCount s.trace)

/-! ### The hand-off and the decoder -/

/-- 42_rxhandoff.md R160: fill, swap, re-arm, then decode, in this order; for a request the transport holds
(R166). -/
def Obligations.RxCompleteSwapsArmsDecodes : Prop :=
  ∀ (s : State) (data : List Byte), s.fault = none → s.isOpen = true →
    s.rxArmed.isSome = true → data.length % 4 = 0 →
    data.length ≤ s.cfg.rxBufSize →
    ∃ t, exec (.rxComplete .success data) s = .next t ∧
      exec (.decodeChunk s.rxActive data.length)
        { s with
          rxbuf0 := if s.rxActive = .buf0 then data ++ s.rxbuf0.drop data.length else s.rxbuf0
          rxbuf1 := if s.rxActive = .buf1 then data ++ s.rxbuf1.drop data.length else s.rxbuf1
          rxActive := otherIdx s.rxActive
          rxArmed := some (otherIdx s.rxActive)
          trace := s.trace ++ [.armIn (otherIdx s.rxActive) s.cfg.rxBufSize] } = .next t

/-- 42_rxhandoff.md R161: a length that is no multiple of 4 or exceeds the buffer faults before any
write, for a request the transport holds (R166). -/
def Obligations.BadChunkLengthFaults : Prop :=
  ∀ (s : State) (data : List Byte), s.fault = none → s.isOpen = true →
    s.rxArmed.isSome = true →
    (data.length % 4 ≠ 0 ∨ s.cfg.rxBufSize < data.length) →
    exec (.rxComplete .success data) s = .next
      { s with
        rxArmed := none, fault := some .badChunkLength
        outcome := .fault .badChunkLength }

/-- 10_state.md R27; 42_rxhandoff.md R165: whatever the chunk holds, the buffers after it are the filled
one with its old bytes above the received length and the other one untouched, and the two have changed
roles. -/
def Obligations.RxBuffersAlternate : Prop :=
  ∀ (s t : State) (data : List Byte), s.fault = none → s.isOpen = true → data.length % 4 = 0 →
    data.length ≤ s.cfg.rxBufSize → exec (.rxComplete .success data) s = .next t →
    t.rxbuf s.rxActive = data ++ (s.rxbuf s.rxActive).drop data.length ∧
    t.rxbuf (otherIdx s.rxActive) = s.rxbuf (otherIdx s.rxActive) ∧
    t.rxActive = otherIdx s.rxActive ∧ t.rxArmed = some (otherIdx s.rxActive)

/-- 42_rxhandoff.md R164: ArmIn offers the whole buffer, and only PORT_OPEN (buffer 0) and a successful
RX_COMPLETE (the new active buffer) emit it. -/
def Obligations.ArmInOnlyFromOpenAndRxComplete : Prop :=
  ∀ (i : Instr) (s t : State) (ev : List Event) (idx : RxIdx) (len : Nat),
    exec i s = .next t → t.trace = s.trace ++ ev → .armIn idx len ∈ ev →
    len = s.cfg.rxBufSize ∧
    ((i = .portOpen ∧ idx = .buf0) ∨ (∃ data, i = .rxComplete .success data ∧ idx = t.rxActive))

/-- 43_decode.md R180, R201: DECODE_CHUNK runs the instructions of the buffer's packets in buffer
order, each completely, and stops at the first that faults. -/
def Obligations.DecodeChunkRunsPacketsInOrder : Prop :=
  ∀ (s : State) (f : RxIdx) (len : Nat), s.fault = none → len % 4 = 0 → len ≤ s.cfg.rxBufSize →
    exec (.decodeChunk f len) s =
      runInOrder ((s.packetsFrom f (len / 4) 0).map decodePacket) s

/-- 43_decode.md R180, R198: a chunk of short messages is delivered in packet order and changes nothing
else. -/
def Obligations.ShortMessageChunkDelivers : Prop :=
  ∀ (s : State) (f : RxIdx) (k : Nat), s.fault = none → 4 * k ≤ s.cfg.rxBufSize →
    (∀ p ∈ s.packetsFrom f k 0, (rxRow p.cin p.p1).short = true) →
    exec (.decodeChunk f (4 * k)) s = .next
      { s with trace := s.trace ++ (s.packetsFrom f k 0).map shortMsg, outcome := .ok }

/-- 42_rxhandoff.md R160, R167: receiving short messages (none, for an empty chunk), from the bytes on
the wire to the events, for a request the transport holds (R166). -/
def Obligations.RxCompleteDeliversShortMessages : Prop :=
  ∀ (s : State) (ps : List Packet), s.fault = none → s.isOpen = true →
    s.rxArmed.isSome = true → 4 * ps.length ≤ s.cfg.rxBufSize →
    (∀ p ∈ ps, (rxRow p.cin p.p1).short = true) →
    exec (.rxComplete .success (ps.flatMap Packet.bytes)) s = .next
      { s with
        rxbuf0 := if s.rxActive = .buf0 then ps.flatMap Packet.bytes ++ s.rxbuf0.drop (4 * ps.length)
          else s.rxbuf0
        rxbuf1 := if s.rxActive = .buf1 then ps.flatMap Packet.bytes ++ s.rxbuf1.drop (4 * ps.length)
          else s.rxbuf1
        rxActive := otherIdx s.rxActive
        rxArmed := some (otherIdx s.rxActive)
        trace := s.trace ++ .armIn (otherIdx s.rxActive) s.cfg.rxBufSize :: ps.map shortMsg
        outcome := .ok }

/-- 43_decode.md R181, R182, R184, R190 to R193, R196: the packets of these CINs decode to their rows,
and each row delivers its cable and its three payload bytes and changes nothing else. -/
def Obligations.ThreeByteRowsDeliver : Prop :=
  (∀ p : Packet,
    (p.cin = 0x0#4 → decode (.packet p) = .rxCin0 p.cable p.p1 p.p2 p.p3) ∧
    (p.cin = 0x1#4 → decode (.packet p) = .rxCin1 p.cable p.p1 p.p2 p.p3) ∧
    (p.cin = 0x3#4 → decode (.packet p) = .rxCin3 p.cable p.p1 p.p2 p.p3) ∧
    (p.cin = 0x8#4 → decode (.packet p) = .rxCin8 p.cable p.p1 p.p2 p.p3) ∧
    (p.cin = 0x9#4 → decode (.packet p) = .rxCin9 p.cable p.p1 p.p2 p.p3) ∧
    (p.cin = 0xA#4 → decode (.packet p) = .rxCinA p.cable p.p1 p.p2 p.p3) ∧
    (p.cin = 0xB#4 → decode (.packet p) = .rxCinB p.cable p.p1 p.p2 p.p3) ∧
    (p.cin = 0xE#4 → decode (.packet p) = .rxCinE p.cable p.p1 p.p2 p.p3)) ∧
  (∀ (s : State) (c : Cable) (p1 p2 p3 : Byte), s.fault = none →
    ∀ i ∈ [Instr.rxCin0 c p1 p2 p3, .rxCin1 c p1 p2 p3, .rxCin3 c p1 p2 p3, .rxCin8 c p1 p2 p3,
      .rxCin9 c p1 p2 p3, .rxCinA c p1 p2 p3, .rxCinB c p1 p2 p3, .rxCinE c p1 p2 p3],
      exec i s = .next { s with trace := s.trace ++ [.msg c [p1, p2, p3]], outcome := .ok })

/-- 43_decode.md R183, R186, R194, R195, R197: the same for the rows that deliver two bytes or one; the
payload bytes they ignore appear nowhere. -/
def Obligations.ShorterRowsDeliver : Prop :=
  (∀ p : Packet,
    (p.cin = 0x2#4 → decode (.packet p) = .rxCin2 p.cable p.p1 p.p2 p.p3) ∧
    (p.cin = 0xC#4 → decode (.packet p) = .rxCinC p.cable p.p1 p.p2 p.p3) ∧
    (p.cin = 0xD#4 → decode (.packet p) = .rxCinD p.cable p.p1 p.p2 p.p3) ∧
    (p.cin = 0x5#4 → p.p1 = 0xF6#8 → decode (.packet p) = .rxCin5F6 p.cable p.p2 p.p3) ∧
    (p.cin = 0xF#4 → decode (.packet p) = .rxCinF p.cable p.p1 p.p2 p.p3)) ∧
  (∀ (s : State) (c : Cable) (p1 p2 p3 : Byte), s.fault = none →
    (∀ i ∈ [Instr.rxCin2 c p1 p2 p3, .rxCinC c p1 p2 p3, .rxCinD c p1 p2 p3],
      exec i s = .next { s with trace := s.trace ++ [.msg c [p1, p2]], outcome := .ok }) ∧
    exec (.rxCin5F6 c p2 p3) s =
      .next { s with trace := s.trace ++ [.msg c [0xF6#8]], outcome := .ok } ∧
    exec (.rxCinF c p1 p2 p3) s = .next { s with trace := s.trace ++ [.msg c [p1]], outcome := .ok })

/-- 43_decode.md R185, R187 to R189: the SysEx packets decode to their rows, and each row is the
reassembler step the rule names, on the packet's cable with its payload bytes. -/
def Obligations.SysexRowsRunReassembler : Prop :=
  (∀ p : Packet,
    (p.cin = 0x4#4 → decode (.packet p) = .rxCin4 p.cable p.p1 p.p2 p.p3) ∧
    (p.cin = 0x5#4 → p.p1 ≠ 0xF6#8 → decode (.packet p) = .rxCin5Term p.cable p.p1 p.p2 p.p3) ∧
    (p.cin = 0x6#4 → decode (.packet p) = .rxCin6 p.cable p.p1 p.p2 p.p3) ∧
    (p.cin = 0x7#4 → decode (.packet p) = .rxCin7 p.cable p.p1 p.p2 p.p3)) ∧
  (∀ (s : State) (c : Cable) (p1 p2 p3 : Byte),
    exec (.rxCin4 c p1 p2 p3) s = exec (.sxAppend c p1 p2 p3) s ∧
    exec (.rxCin5Term c p1 p2 p3) s = exec (.sxTerm c 1 [p1]) s ∧
    exec (.rxCin6 c p1 p2 p3) s = exec (.sxTerm c 2 [p1, p2]) s ∧
    exec (.rxCin7 c p1 p2 p3) s = exec (.sxTerm c 3 [p1, p2, p3]) s)

/-! ### The reassembler -/

/-- 44_sysex.md R221; 43_decode.md R185: three bytes appended to a buffer with room. The bytes that then
stand there are the packet's, and any value where another session's buffer overlaps
(93_implementation_defined.md U19; log entry 18): with disjoint buffers `vs = bs`. -/
def Obligations.AppendStoresBehindBuffer : Prop :=
  ∀ (s : State) (i : Instr) (c : Cable) (bs : List Byte) (a : Nat), s.fault = none →
    appendBytes i = some (c, bs) → (s.session c).buf = some a → 3 ≤ (s.session c).capLeft →
    ∃ vs, StoredAs s c (a + (s.session c).pos) bs vs ∧ exec i s = .next
      { s.setSession c ⟨some a, (s.session c).pos + 3, (s.session c).capLeft - 3⟩ with
        sxmem := s.sxmem.store (a + (s.session c).pos) vs, draws := s.draws + 1, outcome := .ok }

/-- 44_sysex.md R221, R222: without a buffer, or with room for fewer than 3 bytes, a buffer is asked
for first; what the session held is handed off, the answer is installed with `pos` 0, and the three
bytes go to its start (any value where another session's buffer overlaps, log entry 18). -/
def Obligations.AppendRequestsBufferFirst : Prop :=
  ∀ (s : State) (i : Instr) (c : Cable) (bs : List Byte), s.fault = none →
    appendBytes i = some (c, bs) → ((s.session c).buf = none ∨ (s.session c).capLeft < 3) →
    3 ≤ s.nextAnswer.cap →
    ∃ vs, StoredAs s c s.nextAnswer.buf bs vs ∧ exec i s = .next
      { s.dropAnswer.setSession c ⟨some s.nextAnswer.buf, 3, s.nextAnswer.cap - 3⟩ with
        sxmem := s.sxmem.store s.nextAnswer.buf vs
        draws := s.dropAnswer.draws + 1
        trace := s.trace ++
          [.bufReq c ((s.session c).buf.map fun a => (a, (s.session c).pos)) s.nextAnswer]
        outcome := .ok }

/-- 44_sysex.md R222, R227: SX_BUFREQ asks, empties the session, then installs the answer, or faults
when its capacity is below the need. -/
def Obligations.BufferRequestInstallsOrFaults : Prop :=
  ∀ (s : State) (c : Cable) (need : Nat), s.fault = none →
    let ev := Event.bufReq c ((s.session c).buf.map fun a => (a, (s.session c).pos)) s.nextAnswer
    (need ≤ s.nextAnswer.cap → exec (.sxBufreq c need) s = .next
      { s.dropAnswer.setSession c ⟨some s.nextAnswer.buf, 0, s.nextAnswer.cap⟩ with
        trace := s.trace ++ [ev], outcome := .ok }) ∧
    (s.nextAnswer.cap < need → exec (.sxBufreq c need) s = .next
      { s.dropAnswer.setSession c ⟨none, 0, 0⟩ with
        trace := s.trace ++ [ev], fault := some .sysExNoBuffer, outcome := .fault .sysExNoBuffer })

/-- 44_sysex.md R227: an answer too small for the three bytes faults; they are stored nowhere and the
session is left empty. -/
def Obligations.UnusableAnswerFaults : Prop :=
  ∀ (s : State) (i : Instr) (c : Cable) (bs : List Byte), s.fault = none →
    appendBytes i = some (c, bs) → ((s.session c).buf = none ∨ (s.session c).capLeft < 3) →
    s.nextAnswer.cap < 3 →
    exec i s = .next
      { s.dropAnswer.setSession c ⟨none, 0, 0⟩ with
        trace := s.trace ++
          [.bufReq c ((s.session c).buf.map fun a => (a, (s.session c).pos)) s.nextAnswer]
        fault := some .sysExNoBuffer
        outcome := .fault .sysExNoBuffer }

/-- 44_sysex.md R223; 43_decode.md R187 to R189: a termination with room stores its bytes, delivers the
buffer with its length and empties the session (any value is stored where another session's buffer
overlaps, log entry 18). -/
def Obligations.TerminationDeliversMessage : Prop :=
  ∀ (s : State) (i : Instr) (c : Cable) (bs : List Byte) (a : Nat), s.fault = none →
    termBytes i = some (c, bs) → (s.session c).buf = some a → bs.length ≤ (s.session c).capLeft →
    ∃ vs, StoredAs s c (a + (s.session c).pos) bs vs ∧ exec i s = .next
      { s.setSession c ⟨none, 0, 0⟩ with
        sxmem := s.sxmem.store (a + (s.session c).pos) vs
        draws := s.draws + 1
        trace := s.trace ++ [.sysExMsg c a ((s.session c).pos + bs.length)]
        outcome := .ok }

/-- 44_sysex.md R224: a termination without a buffer or without room. `TERM_POLICY = fault`: it stores and
emits nothing, leaves the session and faults. `TERM_POLICY = request`: it asks for a buffer first, as a
continue packet does, then stores (any value where another session's buffer overlaps, log entry 18),
delivers and empties; an answer below its byte count faults (R227). -/
def Obligations.TerminationWithoutRoomFollowsPolicy : Prop :=
  ∀ (s : State) (i : Instr) (c : Cable) (bs : List Byte), s.fault = none →
    termBytes i = some (c, bs) →
    (s.cfg.termPolicy = .fault →
      ((s.session c).buf = none → exec i s = .next
        { s with fault := some .sysExTermNoSession, outcome := .fault .sysExTermNoSession }) ∧
      (∀ a, (s.session c).buf = some a → (s.session c).capLeft < bs.length → exec i s = .next
        { s with fault := some .sysExOverrun, outcome := .fault .sysExOverrun })) ∧
    (s.cfg.termPolicy = .request →
      ((s.session c).buf = none ∨ (s.session c).capLeft < bs.length) →
      let ev := Event.bufReq c ((s.session c).buf.map fun a => (a, (s.session c).pos)) s.nextAnswer
      (bs.length ≤ s.nextAnswer.cap → ∃ vs, StoredAs s c s.nextAnswer.buf bs vs ∧ exec i s = .next
        { s.dropAnswer.setSession c ⟨none, 0, 0⟩ with
          sxmem := s.sxmem.store s.nextAnswer.buf vs
          draws := s.dropAnswer.draws + 1
          trace := s.trace ++ [ev, .sysExMsg c s.nextAnswer.buf bs.length]
          outcome := .ok }) ∧
      (s.nextAnswer.cap < bs.length → exec i s = .next
        { s.dropAnswer.setSession c ⟨none, 0, 0⟩ with
          trace := s.trace ++ [ev], fault := some .sysExNoBuffer, outcome := .fault .sysExNoBuffer }))

/-- 44_sysex.md R225: SX_RESET empties all 16 sessions and does nothing else. -/
def Obligations.SxResetEmptiesAllSessions : Prop :=
  ∀ s : State, s.fault = none → ∃ t : State, exec .sxReset s = .next { s with sx := t.sx, outcome := .ok } ∧
    ∀ c, t.session c = { buf := none, pos := 0, capLeft := 0 }

/-- 20_memory.md R50, R55, frame of SX: an append or a termination changes no byte but those it stores,
from the address its session or the consumer's answer gives; every other instruction but the two that
run a whole chunk changes no byte. -/
def Obligations.SysexStoresOnlyItsBytes : Prop :=
  ∀ (i : Instr) (s t : State), exec i s = .next t →
    (∀ c bs, storedBytes i = some (c, bs) → ∀ x : Nat,
      (x < storeAddr c bs.length s ∨ storeAddr c bs.length s + bs.length ≤ x) →
      Memory.read t.sxmem x = Memory.read s.sxmem x) ∧
    (storedBytes i = none → (∀ f len, i ≠ .decodeChunk f len) → (∀ st d, i ≠ .rxComplete st d) →
      ∀ x : Nat, Memory.read t.sxmem x = Memory.read s.sxmem x)

/-- 20_memory.md R55; 44_sysex.md R221: the bytes stored read back in payload order at ascending
addresses, but where another session's buffer overlaps (20_memory.md R65, log entry 18). -/
def Obligations.SysexBytesReadBack : Prop :=
  ∀ (i : Instr) (s t : State) (c : Cable) (bs : List Byte), s.fault = none → exec i s = .next t →
    storedBytes i = some (c, bs) → t.outcome = .ok →
    ∃ vs, StoredAs s c (storeAddr c bs.length s) bs vs ∧
      Memory.readBytes t.sxmem (storeAddr c bs.length s) bs.length = some vs

/-- 20_memory.md R58, for every instruction, RX_COMPLETE and DECODE_CHUNK with all their packets among
them: a byte of SX it changes lies in a buffer a session held before, or in one the consumer answered a
request of the instruction with. For an append or a termination run on its own: in the buffer of its own
session, or in the one the consumer answers next. -/
def Obligations.StoresStayInLentBuffer : Prop :=
  ∀ (i : Instr) (s t : State), exec i s = .next t → ∀ x : Nat,
    Memory.read t.sxmem x ≠ Memory.read s.sxmem x →
    ((∃ c, (s.session c).lends x) ∨
      ∃ ev c prev ans, t.trace = s.trace ++ ev ∧ Event.bufReq c prev ans ∈ ev ∧
        ans.buf ≤ x ∧ x < ans.buf + ans.cap) ∧
    (∀ c bs, storedBytes i = some (c, bs) →
      (s.session c).lends x ∨ (s.nextAnswer.buf ≤ x ∧ x < s.nextAnswer.buf + s.nextAnswer.cap))

/-- 44_sysex.md R228; 43_decode.md R200: a chunk without a packet of cable `c` leaves that cable's
session alone and emits no event of it. -/
def Obligations.ChunkLeavesOtherCablesAlone : Prop :=
  ∀ (s t : State) (f : RxIdx) (len : Nat) (c : Cable), exec (.decodeChunk f len) s = .next t →
    (∀ p ∈ s.packetsFrom f (len / 4) 0, p.cable ≠ c) →
    t.session c = s.session c ∧
    ∃ ev, t.trace = s.trace ++ ev ∧ ∀ e ∈ ev, eventCable e ≠ some c

/-- 40_packetizer.md R127: the decoder gives back exactly the bytes written in the cases the rule lists
and in no others. -/
def Obligations.ShortRoundTripExactly : Prop :=
  ∀ (s : State) (c : Cable) (m0 : Byte) (data : List Byte) (p : Packet), s.fault = none →
    data.length ≤ 2 → p.bytes = frameShort s.cfg c m0 data →
    (exec (decodePacket p) s =
      .next { s with trace := s.trace ++ [.msg c (m0 :: data)], outcome := .ok } ↔
     roundTrips s.cfg m0 data)

/-- 44_sysex.md R226 with 40_packetizer.md R120: a SysEx message of at least 4 bytes, framed by
ENC_SYSEX and received in one chunk into a buffer large enough for it, is delivered byte for byte (but
where another session's buffer overlaps the one lent for it: 20_memory.md R65, log entry 18). The one
message left out ends a group of one byte with 0xF6, which the decoder takes as a Tune Request
(43_decode.md R186). -/
def Obligations.SysexRoundTripDeliversBytes : Prop :=
  ∀ (s : State) (f : RxIdx) (c : Cable) (bytes : List Byte), s.fault = none →
    (s.session c).buf = none → 4 ≤ bytes.length →
    (bytes.length % 3 = 1 → bytes.getLast? ≠ some 0xF6#8) →
    (frameSysex c bytes).length ≤ s.cfg.rxBufSize →
    (s.rxbuf f).take (frameSysex c bytes).length = frameSysex c bytes →
    bytes.length ≤ s.nextAnswer.cap →
    ∃ t vs, exec (.decodeChunk f (frameSysex c bytes).length) s = .next t ∧ t.outcome = .ok ∧
      t.trace = s.trace ++
        [.bufReq c none s.nextAnswer, .sysExMsg c s.nextAnswer.buf bytes.length] ∧
      Memory.readBytes t.sxmem s.nextAnswer.buf bytes.length = some vs ∧
      StoredAs s c s.nextAnswer.buf bytes vs ∧
      t.session c = { buf := none, pos := 0, capLeft := 0 } ∧
      ∀ c', c' ≠ c → t.session c' = s.session c'

/-! ### Lifecycle -/

/-- 45_port.md R250, R251: PORT_OPEN of a closed port, and of an open one. What the transport was sending is
gone at the next open at the latest (R252): that the model drops it here is log entry 8. -/
def Obligations.PortOpenArmsBufferZero : Prop :=
  ∀ s : State,
    (∀ cause, s.fault = some cause → exec .portOpen s = .next { s with outcome := .fault cause }) ∧
    (s.fault = none → s.isOpen = false →
      exec .portOpen s = .next
        { s with
          isOpen := true, rxActive := .buf0, txInflight := none, rxArmed := some .buf0
          trace := s.trace ++ [.armIn .buf0 s.cfg.rxBufSize, .portOpened], outcome := .ok }) ∧
    (s.fault = none → s.isOpen = true → exec .portOpen s = .next { s with outcome := .ok })

/-- 45_port.md R252, R253: PORT_CLOSE of an open port, and of a closed one. -/
def Obligations.PortCloseDiscardsPendingWork : Prop :=
  ∀ s : State,
    (∀ cause, s.fault = some cause → exec .portClose s = .next { s with outcome := .fault cause }) ∧
    (s.fault = none → s.isOpen = true →
      exec .portClose s = .next
        { s with
          isOpen := false, sending := false, txq := []
          sx := Vector.replicate 16 { buf := none, pos := 0, capLeft := 0 }
          trace := s.trace ++ [.portClosed], outcome := .ok }) ∧
    (s.fault = none → s.isOpen = false → exec .portClose s = .next { s with outcome := .ok })

/-- 44_sysex.md R225: after a close and an open, a SysEx start on any cable begins a fresh session: the
request carries no previous bytes and the bytes go to the start of the new buffer. -/
def Obligations.CloseAbandonsSysexInProgress : Prop :=
  ∀ (s : State) (c : Cable) (b1 b2 b3 : Byte), s.fault = none → s.isOpen = true →
    3 ≤ s.nextAnswer.cap →
    ∃ t u v, exec .portClose s = .next t ∧ exec .portOpen t = .next u ∧
      exec (.rxCin4 c b1 b2 b3) u = .next v ∧
      v.trace = s.trace ++ [.portClosed, .armIn .buf0 s.cfg.rxBufSize, .portOpened,
        .bufReq c none s.nextAnswer] ∧
      v.session c = ⟨some s.nextAnswer.buf, 3, s.nextAnswer.cap - 3⟩ ∧
      v.sxmem = s.sxmem.store s.nextAnswer.buf [b1, b2, b3]

/-! ### Errors, faults, whole-machine rules -/

/-- 10_state.md R31: while a fault is latched every operation but RESET is refused: outcome
`Fault(S.fault)`, and nothing else changes. The model's choices: a delivered notification has left the
transport (log entry 8), and rows, pure functions and internal functions run on their own are refused like
operations (log entry 9). -/
def Obligations.RefusedWhileFaultLatched : Prop :=
  ∀ (i : Instr) (s : State) (cause : FaultCause), s.fault = some cause → i ≠ .reset →
    exec i s = .next { delivered i s with outcome := .fault cause }

/-- 60_exceptions.md R270: an operation that returns an error leaves the state as it was. -/
def Obligations.ErrorsLeaveStateUnchanged : Prop :=
  ∀ (i : Instr) (s t : State) (e : ErrCode), exec i s = .next t → t.outcome = .err e →
    t = { delivered i s with outcome := .err e }

/-- 00_scope.md R7; 60_exceptions.md R272: an operation returns `Fault(cause)` exactly when that cause
stands latched after it. That this holds of rows, pure functions and internal functions run on their own
under a latched fault is the model's choice (log entry 9). -/
def Obligations.FaultOutcomeIsLatchedCause : Prop :=
  ∀ (i : Instr) (s t : State) (cause : FaultCause), exec i s = .next t →
    (t.outcome = .fault cause ↔ t.fault = some cause)

/-- Where instructions stop, and that they complete everywhere else. Two internal functions outside their
precondition stop by name (the model's choice, log entries 10 and 11). A notification of a request the
transport does not hold, on an open port with no fault latched, is no move (42_rxhandoff.md R166,
93_implementation_defined.md U17); that it is refused by name is the model's form of it (log entry 13). -/
def Obligations.StopsExactlyWhereNamed : Prop :=
  (∀ s : State, s.fault = none → s.txq = [] → exec .handover s = .fault .handoverEmptyQueue) ∧
  (∀ (s : State) (f : RxIdx) (len : Nat), s.fault = none → s.cfg.rxBufSize < len →
    exec (.decodeChunk f len) s = .fault .rxBufferRange) ∧
  (∀ (s : State) (st : XferStatus), s.fault = none → s.isOpen = true → s.txInflight = none →
    (st = .success → s.sending = true) →
    exec (.txComplete st) s = .refused .noMove) ∧
  (∀ (s : State) (st : XferStatus) (data : List Byte), s.fault = none → s.isOpen = true →
    s.rxArmed = none →
    exec (.rxComplete st data) s = .refused .noMove) ∧
  (∀ (i : Instr) (s : State),
    (∃ t, exec i s = .next t) ∨
    (i = .handover ∧ s.fault = none ∧ s.txq = []) ∨
    (∃ f len, i = .decodeChunk f len ∧ s.fault = none ∧ s.cfg.rxBufSize < len) ∨
    (∃ st, i = .txComplete st ∧ s.fault = none ∧ s.isOpen = true ∧ s.txInflight = none ∧
      (st = .success → s.sending = true)) ∨
    (∃ st data, i = .rxComplete st data ∧ s.fault = none ∧ s.isOpen = true ∧ s.rxArmed = none))

/-- 00_scope.md R8; 10_state.md R32: the trace only grows, and no instruction writes the parameters or
the inbox. -/
def Obligations.TraceGrowsParametersStay : Prop :=
  ∀ (i : Instr) (s t : State), exec i s = .next t →
    (∃ ev, t.trace = s.trace ++ ev) ∧ t.cfg = s.cfg ∧ t.inbox = s.inbox

/-- 10_state.md R34; 60_exceptions.md R282: a producer operation touches the queue, `sending` and the
transport's outgoing request, and no other state. -/
def Obligations.ProducerTouchesOnlyTheQueue : Prop :=
  ∀ (i : Instr) (s t : State), agentsOf i = [.producer] → exec i s = .next t →
    t = { s with
      txq := t.txq, sending := t.sending, txInflight := t.txInflight,
      trace := t.trace, outcome := t.outcome }

/-! ### Invariants -/

/-- The reset state meets both invariants (`RunInv` contains `StateInv`). It uses the default parameters
(log entry 4) and the model's RX buffer contents (log entry 5). -/
def Obligations.ResetMeetsInvariants : Prop := RunInv State.reset

/-- 10_state.md R37 (I1, I2, I3, I5), R22 (`pos + cap_left` is the lent capacity), R30 and the canonical
form of SX: kept by every step, whatever instruction the inbox holds. -/
def Obligations.StepKeepsStateInv : Prop :=
  ∀ s t : State, StateInv s → step s = .next t → StateInv t

/-- 10_state.md R37 (I4, I6) and 44_sysex.md R222: kept by every step of a run in which only agents'
operations are invoked (00_scope.md R6). -/
def Obligations.StepKeepsRunInv : Prop :=
  ∀ s t : State, RunInv s → step s = .next t → RunInv t

/-! ### The stall -/

/-- 42_rxhandoff.md R162; 41_txflow.md R143 (90_conflicts.md C7): with no buffer armed on an open port, none
is armed until the port is closed or the block reset; and with `sending` set but nothing in flight, nothing
is sent until then, and the queue only grows. HANDOVER run on its own, which no agent invokes, is left
out of the second half. -/
def Obligations.StallLastsUntilCloseOrReset : Prop :=
  ∀ (i : Instr) (s t : State), s.isOpen = true → i ≠ .portClose → i ≠ .reset → exec i s = .next t →
    t.isOpen = true ∧
    (s.rxArmed = none → t.rxArmed = none ∧ t.rxActive = s.rxActive) ∧
    (s.sending = true → s.txInflight = none → i ≠ .handover →
      t.sending = true ∧ t.txInflight = none ∧ (∃ f, t.txq = s.txq ++ f) ∧
      sentBytes t.trace = sentBytes s.trace)
end

