-- ==== Sys2Proof/Laws/Operands.lean ====
section
/-! SUPPORT. The nibbles of a packet's first byte, and the lengths of what the encoders assemble. -/

namespace Sys2Proof

@[simp] theorem hiNibble_headerByte (c : Cable) (n : Nibble) : hiNibble (headerByte c n) = c := by
  revert c n; decide

@[simp] theorem loNibble_headerByte (c : Cable) (n : Nibble) : loNibble (headerByte c n) = n := by
  revert c n; decide

theorem headerByte_nibbles (b : Byte) : headerByte (hiNibble b) (loNibble b) = b := by
  revert b; decide

theorem headerByte_toNat (c : Cable) (n : Nibble) :
    (headerByte c n).toNat = 16 * c.toNat + n.toNat := by
  revert c n; decide

@[simp] theorem frame_length (c : Cable) (n : Nibble) (m : List Byte) (L : Nat) :
    (frame c n m L).length = 4 := rfl

@[simp] theorem frameShort_length (p : Params) (c : Cable) (s : Byte) (d : List Byte) :
    (frameShort p c s d).length = 4 := by
  unfold frameShort; split <;> rfl

/-- `4·ceil(len/3)` bytes (40_packetizer.md R118). -/
theorem frameSysex_length (c : Cable) (bytes : List Byte) :
    (frameSysex c bytes).length = 4 * ((bytes.length + 2) / 3) := by
  fun_induction frameSysex c bytes <;> simp_all [groupCont, groupEnd1, groupEnd2, groupEnd3]; omega

theorem frameSysex_eq_nil (c : Cable) (bytes : List Byte) : frameSysex c bytes = [] ↔ bytes = [] := by
  rw [← List.length_eq_zero_iff, frameSysex_length, ← List.length_eq_zero_iff]; omega

/-- A packet assembled from cable, CIN and payload decodes to the row of that CIN (R83, R84). -/
theorem decode_packetOf (c : Cable) (n : Nibble) (p1 p2 p3 : Byte) :
    decode (packetOf c n p1 p2 p3) = (rxRow n p1).toInstr c p1 p2 p3 := by
  simp [packetOf, decode, decodePacket, Packet.cin, Packet.cable]

end Sys2Proof
end

