-- ==== Sys2Proof/Laws/State.lean ====
section
/-! SUPPORT. One lemma per field per named update of the state, true by unfolding the update once, and
the reads that go through an accessor. -/

namespace Sys2Proof.Machine

/-! ### setSending -/

@[simp] theorem State.setSending_isOpen (s : State) (v : Bool) :
    (s.setSending v).isOpen = s.isOpen := rfl

@[simp] theorem State.setSending_sending (s : State) (v : Bool) :
    (s.setSending v).sending = v := rfl

@[simp] theorem State.setSending_txq (s : State) (v : Bool) :
    (s.setSending v).txq = s.txq := rfl

@[simp] theorem State.setSending_rxActive (s : State) (v : Bool) :
    (s.setSending v).rxActive = s.rxActive := rfl

@[simp] theorem State.setSending_rxbuf0 (s : State) (v : Bool) :
    (s.setSending v).rxbuf0 = s.rxbuf0 := rfl

@[simp] theorem State.setSending_rxbuf1 (s : State) (v : Bool) :
    (s.setSending v).rxbuf1 = s.rxbuf1 := rfl

@[simp] theorem State.setSending_sx (s : State) (v : Bool) :
    (s.setSending v).sx = s.sx := rfl

@[simp] theorem State.setSending_fault (s : State) (v : Bool) :
    (s.setSending v).fault = s.fault := rfl

@[simp] theorem State.setSending_txInflight (s : State) (v : Bool) :
    (s.setSending v).txInflight = s.txInflight := rfl

@[simp] theorem State.setSending_rxArmed (s : State) (v : Bool) :
    (s.setSending v).rxArmed = s.rxArmed := rfl

@[simp] theorem State.setSending_sxmem (s : State) (v : Bool) :
    (s.setSending v).sxmem = s.sxmem := rfl

@[simp] theorem State.setSending_cfg (s : State) (v : Bool) :
    (s.setSending v).cfg = s.cfg := rfl

@[simp] theorem State.setSending_inbox (s : State) (v : Bool) :
    (s.setSending v).inbox = s.inbox := rfl

@[simp] theorem State.setSending_answers (s : State) (v : Bool) :
    (s.setSending v).answers = s.answers := rfl

@[simp] theorem State.setSending_draws (s : State) (v : Bool) :
    (s.setSending v).draws = s.draws := rfl

@[simp] theorem State.setSending_trace (s : State) (v : Bool) :
    (s.setSending v).trace = s.trace := rfl

@[simp] theorem State.setSending_outcome (s : State) (v : Bool) :
    (s.setSending v).outcome = s.outcome := rfl

@[simp] theorem State.setSending_result (s : State) (v : Bool) :
    (s.setSending v).result = s.result := rfl

/-! ### setOpen -/

@[simp] theorem State.setOpen_isOpen (s : State) (v : Bool) :
    (s.setOpen v).isOpen = v := rfl

@[simp] theorem State.setOpen_sending (s : State) (v : Bool) :
    (s.setOpen v).sending = s.sending := rfl

@[simp] theorem State.setOpen_txq (s : State) (v : Bool) :
    (s.setOpen v).txq = s.txq := rfl

@[simp] theorem State.setOpen_rxActive (s : State) (v : Bool) :
    (s.setOpen v).rxActive = s.rxActive := rfl

@[simp] theorem State.setOpen_rxbuf0 (s : State) (v : Bool) :
    (s.setOpen v).rxbuf0 = s.rxbuf0 := rfl

@[simp] theorem State.setOpen_rxbuf1 (s : State) (v : Bool) :
    (s.setOpen v).rxbuf1 = s.rxbuf1 := rfl

@[simp] theorem State.setOpen_sx (s : State) (v : Bool) :
    (s.setOpen v).sx = s.sx := rfl

@[simp] theorem State.setOpen_fault (s : State) (v : Bool) :
    (s.setOpen v).fault = s.fault := rfl

@[simp] theorem State.setOpen_txInflight (s : State) (v : Bool) :
    (s.setOpen v).txInflight = s.txInflight := rfl

@[simp] theorem State.setOpen_rxArmed (s : State) (v : Bool) :
    (s.setOpen v).rxArmed = s.rxArmed := rfl

@[simp] theorem State.setOpen_sxmem (s : State) (v : Bool) :
    (s.setOpen v).sxmem = s.sxmem := rfl

@[simp] theorem State.setOpen_cfg (s : State) (v : Bool) :
    (s.setOpen v).cfg = s.cfg := rfl

@[simp] theorem State.setOpen_inbox (s : State) (v : Bool) :
    (s.setOpen v).inbox = s.inbox := rfl

@[simp] theorem State.setOpen_answers (s : State) (v : Bool) :
    (s.setOpen v).answers = s.answers := rfl

@[simp] theorem State.setOpen_draws (s : State) (v : Bool) :
    (s.setOpen v).draws = s.draws := rfl

@[simp] theorem State.setOpen_trace (s : State) (v : Bool) :
    (s.setOpen v).trace = s.trace := rfl

@[simp] theorem State.setOpen_outcome (s : State) (v : Bool) :
    (s.setOpen v).outcome = s.outcome := rfl

@[simp] theorem State.setOpen_result (s : State) (v : Bool) :
    (s.setOpen v).result = s.result := rfl

/-! ### setRxActive -/

@[simp] theorem State.setRxActive_isOpen (s : State) (i : RxIdx) :
    (s.setRxActive i).isOpen = s.isOpen := rfl

@[simp] theorem State.setRxActive_sending (s : State) (i : RxIdx) :
    (s.setRxActive i).sending = s.sending := rfl

@[simp] theorem State.setRxActive_txq (s : State) (i : RxIdx) :
    (s.setRxActive i).txq = s.txq := rfl

@[simp] theorem State.setRxActive_rxActive (s : State) (i : RxIdx) :
    (s.setRxActive i).rxActive = i := rfl

@[simp] theorem State.setRxActive_rxbuf0 (s : State) (i : RxIdx) :
    (s.setRxActive i).rxbuf0 = s.rxbuf0 := rfl

@[simp] theorem State.setRxActive_rxbuf1 (s : State) (i : RxIdx) :
    (s.setRxActive i).rxbuf1 = s.rxbuf1 := rfl

@[simp] theorem State.setRxActive_sx (s : State) (i : RxIdx) :
    (s.setRxActive i).sx = s.sx := rfl

@[simp] theorem State.setRxActive_fault (s : State) (i : RxIdx) :
    (s.setRxActive i).fault = s.fault := rfl

@[simp] theorem State.setRxActive_txInflight (s : State) (i : RxIdx) :
    (s.setRxActive i).txInflight = s.txInflight := rfl

@[simp] theorem State.setRxActive_rxArmed (s : State) (i : RxIdx) :
    (s.setRxActive i).rxArmed = s.rxArmed := rfl

@[simp] theorem State.setRxActive_sxmem (s : State) (i : RxIdx) :
    (s.setRxActive i).sxmem = s.sxmem := rfl

@[simp] theorem State.setRxActive_cfg (s : State) (i : RxIdx) :
    (s.setRxActive i).cfg = s.cfg := rfl

@[simp] theorem State.setRxActive_inbox (s : State) (i : RxIdx) :
    (s.setRxActive i).inbox = s.inbox := rfl

@[simp] theorem State.setRxActive_answers (s : State) (i : RxIdx) :
    (s.setRxActive i).answers = s.answers := rfl

@[simp] theorem State.setRxActive_draws (s : State) (i : RxIdx) :
    (s.setRxActive i).draws = s.draws := rfl

@[simp] theorem State.setRxActive_trace (s : State) (i : RxIdx) :
    (s.setRxActive i).trace = s.trace := rfl

@[simp] theorem State.setRxActive_outcome (s : State) (i : RxIdx) :
    (s.setRxActive i).outcome = s.outcome := rfl

@[simp] theorem State.setRxActive_result (s : State) (i : RxIdx) :
    (s.setRxActive i).result = s.result := rfl

/-! ### latch -/

@[simp] theorem State.latch_isOpen (s : State) (x : FaultCause) :
    (s.latch x).isOpen = s.isOpen := rfl

@[simp] theorem State.latch_sending (s : State) (x : FaultCause) :
    (s.latch x).sending = s.sending := rfl

@[simp] theorem State.latch_txq (s : State) (x : FaultCause) :
    (s.latch x).txq = s.txq := rfl

@[simp] theorem State.latch_rxActive (s : State) (x : FaultCause) :
    (s.latch x).rxActive = s.rxActive := rfl

@[simp] theorem State.latch_rxbuf0 (s : State) (x : FaultCause) :
    (s.latch x).rxbuf0 = s.rxbuf0 := rfl

@[simp] theorem State.latch_rxbuf1 (s : State) (x : FaultCause) :
    (s.latch x).rxbuf1 = s.rxbuf1 := rfl

@[simp] theorem State.latch_sx (s : State) (x : FaultCause) :
    (s.latch x).sx = s.sx := rfl

@[simp] theorem State.latch_fault (s : State) (x : FaultCause) :
    (s.latch x).fault = some (s.fault.getD x) := rfl

@[simp] theorem State.latch_txInflight (s : State) (x : FaultCause) :
    (s.latch x).txInflight = s.txInflight := rfl

@[simp] theorem State.latch_rxArmed (s : State) (x : FaultCause) :
    (s.latch x).rxArmed = s.rxArmed := rfl

@[simp] theorem State.latch_sxmem (s : State) (x : FaultCause) :
    (s.latch x).sxmem = s.sxmem := rfl

@[simp] theorem State.latch_cfg (s : State) (x : FaultCause) :
    (s.latch x).cfg = s.cfg := rfl

@[simp] theorem State.latch_inbox (s : State) (x : FaultCause) :
    (s.latch x).inbox = s.inbox := rfl

@[simp] theorem State.latch_answers (s : State) (x : FaultCause) :
    (s.latch x).answers = s.answers := rfl

@[simp] theorem State.latch_draws (s : State) (x : FaultCause) :
    (s.latch x).draws = s.draws := rfl

@[simp] theorem State.latch_trace (s : State) (x : FaultCause) :
    (s.latch x).trace = s.trace := rfl

@[simp] theorem State.latch_outcome (s : State) (x : FaultCause) :
    (s.latch x).outcome = s.outcome := rfl

@[simp] theorem State.latch_result (s : State) (x : FaultCause) :
    (s.latch x).result = s.result := rfl

/-! ### setSession -/

@[simp] theorem State.setSession_isOpen (s : State) (c : Cable) (v : Session) :
    (s.setSession c v).isOpen = s.isOpen := rfl

@[simp] theorem State.setSession_sending (s : State) (c : Cable) (v : Session) :
    (s.setSession c v).sending = s.sending := rfl

@[simp] theorem State.setSession_txq (s : State) (c : Cable) (v : Session) :
    (s.setSession c v).txq = s.txq := rfl

@[simp] theorem State.setSession_rxActive (s : State) (c : Cable) (v : Session) :
    (s.setSession c v).rxActive = s.rxActive := rfl

@[simp] theorem State.setSession_rxbuf0 (s : State) (c : Cable) (v : Session) :
    (s.setSession c v).rxbuf0 = s.rxbuf0 := rfl

@[simp] theorem State.setSession_rxbuf1 (s : State) (c : Cable) (v : Session) :
    (s.setSession c v).rxbuf1 = s.rxbuf1 := rfl

@[simp] theorem State.setSession_sx (s : State) (c : Cable) (v : Session) :
    (s.setSession c v).sx = s.sx.set c.toNat v c.isLt := rfl

@[simp] theorem State.setSession_fault (s : State) (c : Cable) (v : Session) :
    (s.setSession c v).fault = s.fault := rfl

@[simp] theorem State.setSession_txInflight (s : State) (c : Cable) (v : Session) :
    (s.setSession c v).txInflight = s.txInflight := rfl

@[simp] theorem State.setSession_rxArmed (s : State) (c : Cable) (v : Session) :
    (s.setSession c v).rxArmed = s.rxArmed := rfl

@[simp] theorem State.setSession_sxmem (s : State) (c : Cable) (v : Session) :
    (s.setSession c v).sxmem = s.sxmem := rfl

@[simp] theorem State.setSession_cfg (s : State) (c : Cable) (v : Session) :
    (s.setSession c v).cfg = s.cfg := rfl

@[simp] theorem State.setSession_inbox (s : State) (c : Cable) (v : Session) :
    (s.setSession c v).inbox = s.inbox := rfl

@[simp] theorem State.setSession_answers (s : State) (c : Cable) (v : Session) :
    (s.setSession c v).answers = s.answers := rfl

@[simp] theorem State.setSession_draws (s : State) (c : Cable) (v : Session) :
    (s.setSession c v).draws = s.draws := rfl

@[simp] theorem State.setSession_trace (s : State) (c : Cable) (v : Session) :
    (s.setSession c v).trace = s.trace := rfl

@[simp] theorem State.setSession_outcome (s : State) (c : Cable) (v : Session) :
    (s.setSession c v).outcome = s.outcome := rfl

@[simp] theorem State.setSession_result (s : State) (c : Cable) (v : Session) :
    (s.setSession c v).result = s.result := rfl

/-! ### writeRx -/

@[simp] theorem State.writeRx_isOpen (s : State) (f : RxIdx) (d : List Byte) :
    (s.writeRx f d).isOpen = s.isOpen := by cases f <;> rfl

@[simp] theorem State.writeRx_sending (s : State) (f : RxIdx) (d : List Byte) :
    (s.writeRx f d).sending = s.sending := by cases f <;> rfl

@[simp] theorem State.writeRx_txq (s : State) (f : RxIdx) (d : List Byte) :
    (s.writeRx f d).txq = s.txq := by cases f <;> rfl

@[simp] theorem State.writeRx_rxActive (s : State) (f : RxIdx) (d : List Byte) :
    (s.writeRx f d).rxActive = s.rxActive := by cases f <;> rfl

@[simp] theorem State.writeRx_sx (s : State) (f : RxIdx) (d : List Byte) :
    (s.writeRx f d).sx = s.sx := by cases f <;> rfl

@[simp] theorem State.writeRx_fault (s : State) (f : RxIdx) (d : List Byte) :
    (s.writeRx f d).fault = s.fault := by cases f <;> rfl

@[simp] theorem State.writeRx_txInflight (s : State) (f : RxIdx) (d : List Byte) :
    (s.writeRx f d).txInflight = s.txInflight := by cases f <;> rfl

@[simp] theorem State.writeRx_rxArmed (s : State) (f : RxIdx) (d : List Byte) :
    (s.writeRx f d).rxArmed = s.rxArmed := by cases f <;> rfl

@[simp] theorem State.writeRx_sxmem (s : State) (f : RxIdx) (d : List Byte) :
    (s.writeRx f d).sxmem = s.sxmem := by cases f <;> rfl

@[simp] theorem State.writeRx_cfg (s : State) (f : RxIdx) (d : List Byte) :
    (s.writeRx f d).cfg = s.cfg := by cases f <;> rfl

@[simp] theorem State.writeRx_inbox (s : State) (f : RxIdx) (d : List Byte) :
    (s.writeRx f d).inbox = s.inbox := by cases f <;> rfl

@[simp] theorem State.writeRx_answers (s : State) (f : RxIdx) (d : List Byte) :
    (s.writeRx f d).answers = s.answers := by cases f <;> rfl

@[simp] theorem State.writeRx_draws (s : State) (f : RxIdx) (d : List Byte) :
    (s.writeRx f d).draws = s.draws := by cases f <;> rfl

@[simp] theorem State.writeRx_trace (s : State) (f : RxIdx) (d : List Byte) :
    (s.writeRx f d).trace = s.trace := by cases f <;> rfl

@[simp] theorem State.writeRx_outcome (s : State) (f : RxIdx) (d : List Byte) :
    (s.writeRx f d).outcome = s.outcome := by cases f <;> rfl

@[simp] theorem State.writeRx_result (s : State) (f : RxIdx) (d : List Byte) :
    (s.writeRx f d).result = s.result := by cases f <;> rfl

/-! ### emit -/

@[simp] theorem State.emit_isOpen (s : State) (e : Event) :
    (s.emit e).isOpen = s.isOpen := rfl

@[simp] theorem State.emit_sending (s : State) (e : Event) :
    (s.emit e).sending = s.sending := rfl

@[simp] theorem State.emit_txq (s : State) (e : Event) :
    (s.emit e).txq = s.txq := rfl

@[simp] theorem State.emit_rxActive (s : State) (e : Event) :
    (s.emit e).rxActive = s.rxActive := rfl

@[simp] theorem State.emit_rxbuf0 (s : State) (e : Event) :
    (s.emit e).rxbuf0 = s.rxbuf0 := rfl

@[simp] theorem State.emit_rxbuf1 (s : State) (e : Event) :
    (s.emit e).rxbuf1 = s.rxbuf1 := rfl

@[simp] theorem State.emit_sx (s : State) (e : Event) :
    (s.emit e).sx = s.sx := rfl

@[simp] theorem State.emit_fault (s : State) (e : Event) :
    (s.emit e).fault = s.fault := rfl

@[simp] theorem State.emit_txInflight (s : State) (e : Event) :
    (s.emit e).txInflight = s.txInflight := rfl

@[simp] theorem State.emit_rxArmed (s : State) (e : Event) :
    (s.emit e).rxArmed = s.rxArmed := rfl

@[simp] theorem State.emit_sxmem (s : State) (e : Event) :
    (s.emit e).sxmem = s.sxmem := rfl

@[simp] theorem State.emit_cfg (s : State) (e : Event) :
    (s.emit e).cfg = s.cfg := rfl

@[simp] theorem State.emit_inbox (s : State) (e : Event) :
    (s.emit e).inbox = s.inbox := rfl

@[simp] theorem State.emit_answers (s : State) (e : Event) :
    (s.emit e).answers = s.answers := rfl

@[simp] theorem State.emit_draws (s : State) (e : Event) :
    (s.emit e).draws = s.draws := rfl

@[simp] theorem State.emit_trace (s : State) (e : Event) :
    (s.emit e).trace = s.trace ++ [e] := rfl

@[simp] theorem State.emit_outcome (s : State) (e : Event) :
    (s.emit e).outcome = s.outcome := rfl

@[simp] theorem State.emit_result (s : State) (e : Event) :
    (s.emit e).result = s.result := rfl

/-! ### submitOut -/

@[simp] theorem State.submitOut_isOpen (s : State) (b : List Byte) :
    (s.submitOut b).isOpen = s.isOpen := rfl

@[simp] theorem State.submitOut_sending (s : State) (b : List Byte) :
    (s.submitOut b).sending = s.sending := rfl

@[simp] theorem State.submitOut_txq (s : State) (b : List Byte) :
    (s.submitOut b).txq = s.txq := rfl

@[simp] theorem State.submitOut_rxActive (s : State) (b : List Byte) :
    (s.submitOut b).rxActive = s.rxActive := rfl

@[simp] theorem State.submitOut_rxbuf0 (s : State) (b : List Byte) :
    (s.submitOut b).rxbuf0 = s.rxbuf0 := rfl

@[simp] theorem State.submitOut_rxbuf1 (s : State) (b : List Byte) :
    (s.submitOut b).rxbuf1 = s.rxbuf1 := rfl

@[simp] theorem State.submitOut_sx (s : State) (b : List Byte) :
    (s.submitOut b).sx = s.sx := rfl

@[simp] theorem State.submitOut_fault (s : State) (b : List Byte) :
    (s.submitOut b).fault = s.fault := rfl

@[simp] theorem State.submitOut_txInflight (s : State) (b : List Byte) :
    (s.submitOut b).txInflight = some b := rfl

@[simp] theorem State.submitOut_rxArmed (s : State) (b : List Byte) :
    (s.submitOut b).rxArmed = s.rxArmed := rfl

@[simp] theorem State.submitOut_sxmem (s : State) (b : List Byte) :
    (s.submitOut b).sxmem = s.sxmem := rfl

@[simp] theorem State.submitOut_cfg (s : State) (b : List Byte) :
    (s.submitOut b).cfg = s.cfg := rfl

@[simp] theorem State.submitOut_inbox (s : State) (b : List Byte) :
    (s.submitOut b).inbox = s.inbox := rfl

@[simp] theorem State.submitOut_answers (s : State) (b : List Byte) :
    (s.submitOut b).answers = s.answers := rfl

@[simp] theorem State.submitOut_draws (s : State) (b : List Byte) :
    (s.submitOut b).draws = s.draws := rfl

@[simp] theorem State.submitOut_trace (s : State) (b : List Byte) :
    (s.submitOut b).trace = s.trace ++ [.submitOut b] := rfl

@[simp] theorem State.submitOut_outcome (s : State) (b : List Byte) :
    (s.submitOut b).outcome = s.outcome := rfl

@[simp] theorem State.submitOut_result (s : State) (b : List Byte) :
    (s.submitOut b).result = s.result := rfl

/-! ### armIn -/

@[simp] theorem State.armIn_isOpen (s : State) (i : RxIdx) :
    (s.armIn i).isOpen = s.isOpen := rfl

@[simp] theorem State.armIn_sending (s : State) (i : RxIdx) :
    (s.armIn i).sending = s.sending := rfl

@[simp] theorem State.armIn_txq (s : State) (i : RxIdx) :
    (s.armIn i).txq = s.txq := rfl

@[simp] theorem State.armIn_rxActive (s : State) (i : RxIdx) :
    (s.armIn i).rxActive = s.rxActive := rfl

@[simp] theorem State.armIn_rxbuf0 (s : State) (i : RxIdx) :
    (s.armIn i).rxbuf0 = s.rxbuf0 := rfl

@[simp] theorem State.armIn_rxbuf1 (s : State) (i : RxIdx) :
    (s.armIn i).rxbuf1 = s.rxbuf1 := rfl

@[simp] theorem State.armIn_sx (s : State) (i : RxIdx) :
    (s.armIn i).sx = s.sx := rfl

@[simp] theorem State.armIn_fault (s : State) (i : RxIdx) :
    (s.armIn i).fault = s.fault := rfl

@[simp] theorem State.armIn_txInflight (s : State) (i : RxIdx) :
    (s.armIn i).txInflight = s.txInflight := rfl

@[simp] theorem State.armIn_rxArmed (s : State) (i : RxIdx) :
    (s.armIn i).rxArmed = some i := rfl

@[simp] theorem State.armIn_sxmem (s : State) (i : RxIdx) :
    (s.armIn i).sxmem = s.sxmem := rfl

@[simp] theorem State.armIn_cfg (s : State) (i : RxIdx) :
    (s.armIn i).cfg = s.cfg := rfl

@[simp] theorem State.armIn_inbox (s : State) (i : RxIdx) :
    (s.armIn i).inbox = s.inbox := rfl

@[simp] theorem State.armIn_answers (s : State) (i : RxIdx) :
    (s.armIn i).answers = s.answers := rfl

@[simp] theorem State.armIn_draws (s : State) (i : RxIdx) :
    (s.armIn i).draws = s.draws := rfl

@[simp] theorem State.armIn_trace (s : State) (i : RxIdx) :
    (s.armIn i).trace = s.trace ++ [.armIn i s.cfg.rxBufSize] := rfl

@[simp] theorem State.armIn_outcome (s : State) (i : RxIdx) :
    (s.armIn i).outcome = s.outcome := rfl

@[simp] theorem State.armIn_result (s : State) (i : RxIdx) :
    (s.armIn i).result = s.result := rfl

/-! ### txNotified -/

@[simp] theorem State.txNotified_isOpen (s : State) :
    s.txNotified.isOpen = s.isOpen := rfl

@[simp] theorem State.txNotified_sending (s : State) :
    s.txNotified.sending = s.sending := rfl

@[simp] theorem State.txNotified_txq (s : State) :
    s.txNotified.txq = s.txq := rfl

@[simp] theorem State.txNotified_rxActive (s : State) :
    s.txNotified.rxActive = s.rxActive := rfl

@[simp] theorem State.txNotified_rxbuf0 (s : State) :
    s.txNotified.rxbuf0 = s.rxbuf0 := rfl

@[simp] theorem State.txNotified_rxbuf1 (s : State) :
    s.txNotified.rxbuf1 = s.rxbuf1 := rfl

@[simp] theorem State.txNotified_sx (s : State) :
    s.txNotified.sx = s.sx := rfl

@[simp] theorem State.txNotified_fault (s : State) :
    s.txNotified.fault = s.fault := rfl

@[simp] theorem State.txNotified_txInflight (s : State) :
    s.txNotified.txInflight = none := rfl

@[simp] theorem State.txNotified_rxArmed (s : State) :
    s.txNotified.rxArmed = s.rxArmed := rfl

@[simp] theorem State.txNotified_sxmem (s : State) :
    s.txNotified.sxmem = s.sxmem := rfl

@[simp] theorem State.txNotified_cfg (s : State) :
    s.txNotified.cfg = s.cfg := rfl

@[simp] theorem State.txNotified_inbox (s : State) :
    s.txNotified.inbox = s.inbox := rfl

@[simp] theorem State.txNotified_answers (s : State) :
    s.txNotified.answers = s.answers := rfl

@[simp] theorem State.txNotified_draws (s : State) :
    s.txNotified.draws = s.draws := rfl

@[simp] theorem State.txNotified_trace (s : State) :
    s.txNotified.trace = s.trace := rfl

@[simp] theorem State.txNotified_outcome (s : State) :
    s.txNotified.outcome = s.outcome := rfl

@[simp] theorem State.txNotified_result (s : State) :
    s.txNotified.result = s.result := rfl

/-! ### rxNotified -/

@[simp] theorem State.rxNotified_isOpen (s : State) :
    s.rxNotified.isOpen = s.isOpen := rfl

@[simp] theorem State.rxNotified_sending (s : State) :
    s.rxNotified.sending = s.sending := rfl

@[simp] theorem State.rxNotified_txq (s : State) :
    s.rxNotified.txq = s.txq := rfl

@[simp] theorem State.rxNotified_rxActive (s : State) :
    s.rxNotified.rxActive = s.rxActive := rfl

@[simp] theorem State.rxNotified_rxbuf0 (s : State) :
    s.rxNotified.rxbuf0 = s.rxbuf0 := rfl

@[simp] theorem State.rxNotified_rxbuf1 (s : State) :
    s.rxNotified.rxbuf1 = s.rxbuf1 := rfl

@[simp] theorem State.rxNotified_sx (s : State) :
    s.rxNotified.sx = s.sx := rfl

@[simp] theorem State.rxNotified_fault (s : State) :
    s.rxNotified.fault = s.fault := rfl

@[simp] theorem State.rxNotified_txInflight (s : State) :
    s.rxNotified.txInflight = s.txInflight := rfl

@[simp] theorem State.rxNotified_rxArmed (s : State) :
    s.rxNotified.rxArmed = none := rfl

@[simp] theorem State.rxNotified_sxmem (s : State) :
    s.rxNotified.sxmem = s.sxmem := rfl

@[simp] theorem State.rxNotified_cfg (s : State) :
    s.rxNotified.cfg = s.cfg := rfl

@[simp] theorem State.rxNotified_inbox (s : State) :
    s.rxNotified.inbox = s.inbox := rfl

@[simp] theorem State.rxNotified_answers (s : State) :
    s.rxNotified.answers = s.answers := rfl

@[simp] theorem State.rxNotified_draws (s : State) :
    s.rxNotified.draws = s.draws := rfl

@[simp] theorem State.rxNotified_trace (s : State) :
    s.rxNotified.trace = s.trace := rfl

@[simp] theorem State.rxNotified_outcome (s : State) :
    s.rxNotified.outcome = s.outcome := rfl

@[simp] theorem State.rxNotified_result (s : State) :
    s.rxNotified.result = s.result := rfl

/-! ### dropAnswer -/

@[simp] theorem State.dropAnswer_isOpen (s : State) :
    (s.dropAnswer).isOpen = s.isOpen := by
  unfold State.dropAnswer; split <;> simp_all

@[simp] theorem State.dropAnswer_sending (s : State) :
    (s.dropAnswer).sending = s.sending := by
  unfold State.dropAnswer; split <;> simp_all

@[simp] theorem State.dropAnswer_txq (s : State) :
    (s.dropAnswer).txq = s.txq := by
  unfold State.dropAnswer; split <;> simp_all

@[simp] theorem State.dropAnswer_rxActive (s : State) :
    (s.dropAnswer).rxActive = s.rxActive := by
  unfold State.dropAnswer; split <;> simp_all

@[simp] theorem State.dropAnswer_rxbuf0 (s : State) :
    (s.dropAnswer).rxbuf0 = s.rxbuf0 := by
  unfold State.dropAnswer; split <;> simp_all

@[simp] theorem State.dropAnswer_rxbuf1 (s : State) :
    (s.dropAnswer).rxbuf1 = s.rxbuf1 := by
  unfold State.dropAnswer; split <;> simp_all

@[simp] theorem State.dropAnswer_sx (s : State) :
    (s.dropAnswer).sx = s.sx := by
  unfold State.dropAnswer; split <;> simp_all

@[simp] theorem State.dropAnswer_fault (s : State) :
    (s.dropAnswer).fault = s.fault := by
  unfold State.dropAnswer; split <;> simp_all

@[simp] theorem State.dropAnswer_txInflight (s : State) :
    (s.dropAnswer).txInflight = s.txInflight := by
  unfold State.dropAnswer; split <;> simp_all

@[simp] theorem State.dropAnswer_rxArmed (s : State) :
    (s.dropAnswer).rxArmed = s.rxArmed := by
  unfold State.dropAnswer; split <;> simp_all

@[simp] theorem State.dropAnswer_sxmem (s : State) :
    (s.dropAnswer).sxmem = s.sxmem := by
  unfold State.dropAnswer; split <;> simp_all

@[simp] theorem State.dropAnswer_cfg (s : State) :
    (s.dropAnswer).cfg = s.cfg := by
  unfold State.dropAnswer; split <;> simp_all

@[simp] theorem State.dropAnswer_inbox (s : State) :
    (s.dropAnswer).inbox = s.inbox := by
  unfold State.dropAnswer; split <;> simp_all

@[simp] theorem State.dropAnswer_answers (s : State) :
    (s.dropAnswer).answers = s.answers.tail := by
  unfold State.dropAnswer; split <;> simp_all

@[simp] theorem State.dropAnswer_trace (s : State) :
    (s.dropAnswer).trace = s.trace := by
  unfold State.dropAnswer; split <;> simp_all

@[simp] theorem State.dropAnswer_outcome (s : State) :
    (s.dropAnswer).outcome = s.outcome := by
  unfold State.dropAnswer; split <;> simp_all

@[simp] theorem State.dropAnswer_result (s : State) :
    (s.dropAnswer).result = s.result := by
  unfold State.dropAnswer; split <;> simp_all

/-! ### Reads through an accessor -/

@[simp] theorem State.session_setSession_self (s : State) (c : Cable) (v : Session) :
    (s.setSession c v).session c = v := by
  simp [State.session]

theorem State.session_setSession_ne (s : State) {c c' : Cable} (v : Session) (h : c' ≠ c) :
    (s.setSession c v).session c' = s.session c' := by
  have hn : c.toNat ≠ c'.toNat := fun e => h (BitVec.eq_of_toNat_eq e).symm
  simp [State.session, Vector.getElem_set_ne, hn]

/-- A session depends on the session file alone. -/
theorem State.session_congr {s t : State} (h : t.sx = s.sx) (c : Cable) : t.session c = s.session c := by
  simp [State.session, h]

/-- An RX buffer depends on the two buffer fields alone. -/
theorem State.rxbuf_congr {s t : State} (h0 : t.rxbuf0 = s.rxbuf0) (h1 : t.rxbuf1 = s.rxbuf1) (f : RxIdx) :
    t.rxbuf f = s.rxbuf f := by
  cases f <;> simp [State.rxbuf, h0, h1]

@[simp] theorem State.rxbuf_writeRx_self (s : State) (f : RxIdx) (d : List Byte) :
    (s.writeRx f d).rxbuf f = d ++ (s.rxbuf f).drop d.length := by cases f <;> rfl

@[simp] theorem State.rxbuf_writeRx_other (s : State) (f : RxIdx) (d : List Byte) :
    (s.writeRx f d).rxbuf (otherIdx f) = s.rxbuf (otherIdx f) := by cases f <;> rfl

@[simp] theorem otherIdx_ne (f : RxIdx) : otherIdx f ≠ f := by cases f <;> decide

@[simp] theorem otherIdx_otherIdx (f : RxIdx) : otherIdx (otherIdx f) = f := by cases f <;> rfl

/-- Every session of a reset session file is empty (44_sysex.md R225). -/
theorem State.session_of_replicate {s : State} (h : s.sx = Vector.replicate 16 Session.empty) (c : Cable) :
    s.session c = Session.empty := by
  simp [State.session, h]

/-- Two session files with the same sessions are the same. -/
theorem State.sx_ext {s t : State} (h : ∀ c, t.session c = s.session c) : t.sx = s.sx := by
  apply Vector.ext
  intro i hi
  have := h (BitVec.ofNat 4 i)
  simpa [State.session, Nat.mod_eq_of_lt hi] using this

end Sys2Proof.Machine
end

