-- ==== Sys2Proof/Laws/Memory.lean ====
section
/-! SUPPORT. The consumer's memory: read after write, and the canonical form (20_memory.md R50, R55). -/

namespace Sys2Proof.Machine

@[simp] theorem Memory.read_write_self (m : Memory) (a : Nat) (v : Byte) :
    Memory.read (Memory.write m a v) a = some v := by
  induction m with
  | nil => simp [Memory.write, Memory.read]
  | cons x m ih =>
    obtain ⟨b, w⟩ := x
    unfold Memory.write
    split
    · simp [Memory.read]
    · split
      · simp [Memory.read]
      · simp [Memory.read, *]

theorem Memory.read_write_ne (m : Memory) {a x : Nat} (v : Byte) (h : x ≠ a) :
    Memory.read (Memory.write m a v) x = Memory.read m x := by
  induction m with
  | nil => simp [Memory.write, Memory.read, h]
  | cons y m ih =>
    obtain ⟨b, w⟩ := y
    unfold Memory.write
    split
    · simp [Memory.read, h]
    · split
      · subst_vars; simp [Memory.read, h]
      · simp [Memory.read, ih]

/-- An address listed after a write is the one written or was listed before. -/
theorem Memory.mem_write {m : Memory} {a : Nat} {v : Byte} {y : Host.Cell}
    (h : y ∈ Memory.write m a v) : y.1 = a ∨ y ∈ m := by
  induction m with
  | nil => simp_all [Memory.write]
  | cons x m ih =>
    obtain ⟨b, w⟩ := x
    unfold Memory.write at h
    split at h
    · simp_all; rcases h with h | h <;> simp_all
    · split at h
      · simp at h; rcases h with h | h <;> simp_all
      · simp only [List.mem_cons] at h ⊢
        rcases h with h | h
        · exact .inr (.inl h)
        · rcases ih h with h | h
          · exact .inl h
          · exact .inr (.inr h)

theorem Memory.wf_write {m : Memory} (h : Memory.wf m) (a : Nat) (v : Byte) :
    Memory.wf (Memory.write m a v) := by
  induction m with
  | nil => simp [Memory.write, Memory.wf]
  | cons x m ih =>
    obtain ⟨b, w⟩ := x
    obtain ⟨hb, hm⟩ := List.pairwise_cons.mp h
    unfold Memory.write
    split
    next hlt =>
      refine List.pairwise_cons.mpr ⟨?_, h⟩
      intro y hy
      rcases List.mem_cons.mp hy with rfl | hy
      · exact hlt
      · exact Nat.lt_trans hlt (hb y hy)
    next hlt =>
      split
      next he => subst he; exact List.pairwise_cons.mpr ⟨hb, hm⟩
      next hne =>
        refine List.pairwise_cons.mpr ⟨?_, ih hm⟩
        intro y hy
        rcases Memory.mem_write hy with h | h
        · simp only [h]; omega
        · exact hb y h

theorem Memory.wf_store {m : Memory} (h : Memory.wf m) (a : Nat) (bs : List Byte) :
    Memory.wf (Memory.store m a bs) := by
  induction bs generalizing m a with
  | nil => exact h
  | cons b bs ih => exact ih (Memory.wf_write h a b) (a + 1)

/-- The reset state's memory is in canonical form. -/
theorem Memory.wf_reset : Memory.wf State.reset.sxmem := List.Pairwise.nil

/-- A store leaves every address outside its bytes as it was. -/
theorem Memory.read_store_outside (m : Memory) (a : Nat) (bs : List Byte) (x : Nat)
    (h : x < a ∨ a + bs.length ≤ x) : Memory.read (Memory.store m a bs) x = Memory.read m x := by
  induction bs generalizing m a with
  | nil => rfl
  | cons b bs ih =>
    simp only [List.length_cons] at h
    rw [Memory.store, ih _ _ (by omega), Memory.read_write_ne _ _ (by omega)]

/-- A store's bytes read back in order. -/
theorem Memory.read_store_inside (m : Memory) (a : Nat) (bs : List Byte) (i : Nat)
    (h : i < bs.length) : Memory.read (Memory.store m a bs) (a + i) = some bs[i] := by
  induction bs generalizing m a i with
  | nil => simp at h
  | cons b bs ih =>
    cases i with
    | zero =>
      rw [Memory.store, Nat.add_zero, Memory.read_store_outside _ _ _ _ (by omega)]
      simp
    | succ i =>
      have := ih (Memory.write m a b) (a + 1) i (by simpa using h)
      rw [Memory.store, show a + (i + 1) = a + 1 + i by omega, this]
      rfl

/-- Two stores, one right behind the other, are one store. -/
theorem Memory.store_append (m : Memory) (a : Nat) (bs cs : List Byte) :
    Memory.store m a (bs ++ cs) = Memory.store (Memory.store m a bs) (a + bs.length) cs := by
  induction bs generalizing m a with
  | nil => rfl
  | cons b bs ih =>
    rw [List.cons_append, Memory.store, Memory.store, ih, List.length_cons,
      show a + 1 + bs.length = a + (bs.length + 1) by omega]

theorem Memory.readBytes_congr {m m' : Memory} (a : Nat) (n : Nat)
    (h : ∀ x, a ≤ x → x < a + n → Memory.read m' x = Memory.read m x) :
    Memory.readBytes m' a n = Memory.readBytes m a n := by
  induction n generalizing a with
  | zero => rfl
  | succ n ih =>
    rw [Memory.readBytes, Memory.readBytes, h a (by omega) (by omega),
      ih (a + 1) (fun x h1 h2 => h x (by omega) (by omega))]

/-- Stored bytes are what the consumer reads (00_scope.md R8). -/
theorem Memory.readBytes_store (m : Memory) (a : Nat) (bs : List Byte) :
    Memory.readBytes (Memory.store m a bs) a bs.length = some bs := by
  induction bs generalizing m a with
  | nil => rfl
  | cons b bs ih =>
    have h : Memory.read (Memory.store m a (b :: bs)) a = some b :=
      Memory.read_store_inside m a (b :: bs) 0 (by simp)
    rw [List.length_cons, Memory.readBytes, h, Memory.store, ih]
    rfl

end Sys2Proof.Machine
end

