-- ==== Sys2Proof/Laws/Ops.lean ====
section
/-! SUPPORT. What `invoke` can answer, and every instruction but `RESET` as one `invoke`. -/

namespace Sys2Proof.Machine

/-- Refused while a fault is latched (10_state.md R31). -/
theorem invoke_refused {op : State → Except ErrCode State} {s : State} {cause : FaultCause}
    (h : s.fault = some cause) : invoke op s = .next { s with outcome := .fault cause } := by
  simp [invoke, h]

/-- An error leaves the state as it was (60_exceptions.md R270). -/
theorem invoke_error {op : State → Except ErrCode State} {s : State} {e : ErrCode}
    (h : s.fault = none) (ho : op s = .error e) : invoke op s = .next { s with outcome := .err e } := by
  simp [invoke, h, ho]

theorem invoke_ok {op : State → Except ErrCode State} {s t : State}
    (h : s.fault = none) (ho : op s = .ok t) : invoke op s = .next { t with outcome := t.endOutcome } := by
  simp [invoke, h, ho]

/-- An operation that raises no error. -/
theorem invoke_pure {g : State → State} {s : State} (h : s.fault = none) :
    invoke (fun s => .ok (g s)) s = .next { g s with outcome := (g s).endOutcome } := by
  simp [invoke, h]

theorem State.endOutcome_none {t : State} (h : t.fault = none) : t.endOutcome = .ok := by
  simp [State.endOutcome, h]

theorem State.endOutcome_some {t : State} {c : FaultCause} (h : t.fault = some c) :
    t.endOutcome = .fault c := by
  simp [State.endOutcome, h]

/-- The three ways an operation ends (00_scope.md R7), and that it always answers a next state. -/
theorem invoke_cases (op : State → Except ErrCode State) (s : State) :
    (∃ c, s.fault = some c ∧ invoke op s = .next { s with outcome := .fault c }) ∨
    (∃ e, s.fault = none ∧ op s = .error e ∧ invoke op s = .next { s with outcome := .err e }) ∨
    (∃ t, s.fault = none ∧ op s = .ok t ∧ invoke op s = .next { t with outcome := t.endOutcome }) := by
  obtain hf | ⟨c, hf⟩ := Option.eq_none_or_eq_some s.fault
  · cases ho : op s with
    | error e => exact .inr (.inl ⟨e, hf, rfl, invoke_error hf ho⟩)
    | ok t => exact .inr (.inr ⟨t, hf, rfl, invoke_ok hf ho⟩)
  · exact .inl ⟨c, hf, invoke_refused hf⟩

/-- The operation an instruction runs, without the outcomes `invoke` adds. -/
def opOf : Instr → State → Except ErrCode State
  | .rxCin0 c p1 p2 p3 => fun s => .ok (rxCin0 c p1 p2 p3 s)
  | .rxCin1 c p1 p2 p3 => fun s => .ok (rxCin1 c p1 p2 p3 s)
  | .rxCin2 c p1 p2 p3 => fun s => .ok (rxCin2 c p1 p2 p3 s)
  | .rxCin3 c p1 p2 p3 => fun s => .ok (rxCin3 c p1 p2 p3 s)
  | .rxCin4 c p1 p2 p3 => fun s => .ok (rxCin4 c p1 p2 p3 s)
  | .rxCin5F6 c p2 p3 => fun s => .ok (rxCin5F6 c p2 p3 s)
  | .rxCin5Term c p1 p2 p3 => fun s => .ok (rxCin5Term c p1 p2 p3 s)
  | .rxCin6 c p1 p2 p3 => fun s => .ok (rxCin6 c p1 p2 p3 s)
  | .rxCin7 c p1 p2 p3 => fun s => .ok (rxCin7 c p1 p2 p3 s)
  | .rxCin8 c p1 p2 p3 => fun s => .ok (rxCin8 c p1 p2 p3 s)
  | .rxCin9 c p1 p2 p3 => fun s => .ok (rxCin9 c p1 p2 p3 s)
  | .rxCinA c p1 p2 p3 => fun s => .ok (rxCinA c p1 p2 p3 s)
  | .rxCinB c p1 p2 p3 => fun s => .ok (rxCinB c p1 p2 p3 s)
  | .rxCinC c p1 p2 p3 => fun s => .ok (rxCinC c p1 p2 p3 s)
  | .rxCinD c p1 p2 p3 => fun s => .ok (rxCinD c p1 p2 p3 s)
  | .rxCinE c p1 p2 p3 => fun s => .ok (rxCinE c p1 p2 p3 s)
  | .rxCinF c p1 p2 p3 => fun s => .ok (rxCinF c p1 p2 p3 s)
  | .encShortPc c b d => fun s => classRow d (framePc c b d) s
  | .encShortSpp c b d => fun s => classRow d (frameSpp s.cfg c b d) s
  | .encShortSc1 c b d => fun s => classRow d (frameSc1 c b d) s
  | .encShortDefault c b d => fun s => classRow d (frameDefault c b d) s
  | .encSysexCont c g0 g1 g2 => fun s => .ok (s.giveResult (groupCont c g0 g1 g2))
  | .encSysexEnd1 c g0 => fun s => .ok (s.giveResult (groupEnd1 c g0))
  | .encSysexEnd2 c g0 g1 => fun s => .ok (s.giveResult (groupEnd2 c g0 g1))
  | .encSysexEnd3 c g0 g1 g2 => fun s => .ok (s.giveResult (groupEnd3 c g0 g1 g2))
  | .encShort c m len => fun s => (encShort s.cfg c (m.take len)).map s.giveResult
  | .encSysex c bs len => fun s => .ok (s.giveResult (frameSysex c (bs.take len)))
  | .write c m => write c m
  | .sysexWrite c bs => sysexWrite c bs
  | .sendRaw c f => sendRaw c f
  | .submit f => submit f
  | .handover => fun s => .ok (handover s)
  | .txComplete st => txComplete st
  | .rxComplete st d => rxComplete st d
  | .decodeChunk f len => fun s => .ok (decodeChunk f len s)
  | .sxAppend c b1 b2 b3 => fun s => .ok (sxAppend c b1 b2 b3 s)
  | .sxBufreq c need => fun s => .ok (sxBufreq c need s)
  | .sxTerm c n bs => fun s => .ok (sxTerm c (bs.take n) s)
  | .sxReset => fun s => .ok (sxReset s)
  | .portOpen => fun s => .ok (portOpen s)
  | .portClose => fun s => .ok (portClose s)
  | .reset => fun s => .ok (resetBlock s)

/-- Where an instruction stops: two internal functions outside their precondition, and a notification the
transport does not owe. -/
def Stops (i : Instr) (s : State) : Prop :=
  s.fault = none ∧
    ((i = .handover ∧ s.txq = []) ∨ (∃ f len, i = .decodeChunk f len ∧ s.cfg.rxBufSize < len) ∨
      (∃ st, i = .txComplete st ∧ s.isOpen = true ∧ s.txOwed st = false) ∨
      ∃ st d, i = .rxComplete st d ∧ s.isOpen = true ∧ s.rxOwed = false)

/-- A `TX_COMPLETE` is not owed when no request is held, but for a `Success` that finds nothing
being sent. -/
theorem State.txOwed_eq_false {s : State} {st : XferStatus} :
    s.txOwed st = false ↔
      s.txInflight = none ∧ (st = .success → s.sending = true) := by
  simp [State.txOwed]

theorem State.rxOwed_eq_false {s : State} : s.rxOwed = false ↔ s.rxArmed = none := by
  simp [State.rxOwed]

/-- An instruction other than `RESET` is one invocation of its operation, on the state in which the
notification it carries has been delivered. -/
theorem exec_eq_invoke {i : Instr} {s : State} (hr : i ≠ .reset) (hs : ¬ Stops i s) :
    exec i s = invoke (opOf i) (delivered i s) := by
  cases i with
  | handover =>
    have h : ¬ (s.fault = none ∧ s.txq = []) := fun h => hs ⟨h.1, .inl ⟨rfl, h.2⟩⟩
    simp only [exec, execHandover, if_neg h]; rfl
  | decodeChunk f len =>
    have h : ¬ (s.fault = none ∧ s.cfg.rxBufSize < len) := fun h => hs ⟨h.1, .inr (.inl ⟨f, len, rfl, h.2⟩)⟩
    simp only [exec, execDecodeChunk, if_neg h]; rfl
  | txComplete st =>
    have h : ¬ (s.fault = none ∧ s.isOpen = true ∧ s.txOwed st = false) := fun h =>
      hs ⟨h.1, .inr (.inr (.inl ⟨st, rfl, h.2⟩))⟩
    simp only [exec, execTxComplete, if_neg h]; rfl
  | rxComplete st d =>
    have h : ¬ (s.fault = none ∧ s.isOpen = true ∧ s.rxOwed = false) := fun h =>
      hs ⟨h.1, .inr (.inr (.inr ⟨st, d, rfl, h.2⟩))⟩
    simp only [exec, execRxComplete, if_neg h]; rfl
  | reset => exact absurd rfl hr
  | _ => rfl

/-- An instruction that answers a next state did not stop. -/
theorem not_stops_of_next {i : Instr} {s t : State} (h : exec i s = .next t) : ¬ Stops i s := by
  rintro ⟨hf, ⟨rfl, hq⟩ | ⟨f, len, rfl, hl⟩ | ⟨st, rfl, ho⟩ | ⟨st, d, rfl, ho⟩⟩
  · simp [exec, execHandover, hf, hq] at h
  · simp [exec, execDecodeChunk, hf, hl] at h
  · simp [exec, execTxComplete, hf, ho] at h
  · simp [exec, execRxComplete, hf, ho] at h

theorem delivered_fault (i : Instr) (s : State) : (delivered i s).fault = s.fault := by
  cases i <;> rfl

/-- The ways an instruction other than `RESET` answers a next state. -/
theorem exec_next_cases {i : Instr} {s t : State} (h : exec i s = .next t) (hr : i ≠ .reset) :
    (∃ c, s.fault = some c ∧ t = { delivered i s with outcome := .fault c }) ∨
    (∃ e, s.fault = none ∧ opOf i (delivered i s) = .error e ∧
      t = { delivered i s with outcome := .err e }) ∨
    (∃ u, s.fault = none ∧ opOf i (delivered i s) = .ok u ∧ t = { u with outcome := u.endOutcome }) := by
  rw [exec_eq_invoke hr (not_stops_of_next h)] at h
  have hd := delivered_fault i s
  rcases invoke_cases (opOf i) (delivered i s) with ⟨c, hf, hi⟩ | ⟨e, hf, ho, hi⟩ | ⟨u, hf, ho, hi⟩
  · exact .inl ⟨c, hd ▸ hf, (Host.Outcome.next.inj (hi.symm.trans h)).symm⟩
  · exact .inr (.inl ⟨e, hd ▸ hf, ho, (Host.Outcome.next.inj (hi.symm.trans h)).symm⟩)
  · exact .inr (.inr ⟨u, hd ▸ hf, ho, (Host.Outcome.next.inj (hi.symm.trans h)).symm⟩)

end Sys2Proof.Machine
end

