-- ==== Sys2Proof/Laws/Sysex.lean ====
section
/-! SUPPORT. The reassembler's steps: one equation per way each can go, for its callers to cite. -/

namespace Sys2Proof.Machine

@[simp] theorem State.setSession_setSession (s : State) (c : Cable) (v w : Session) :
    (s.setSession c v).setSession c w = s.setSession c w := by
  simp [State.setSession]

@[simp] theorem Session.prev_eq (x : Session) : x.prev = x.buf.map fun a => (a, x.pos) := rfl

/-- The request and its answer when the capacity is enough (44_sysex.md R222). -/
theorem sxBufreq_ok {c : Cable} {need : Nat} {s : State} (h : need ≤ s.nextAnswer.cap) :
    sxBufreq c need s =
      { s.dropAnswer.setSession c ⟨some s.nextAnswer.buf, 0, s.nextAnswer.cap⟩ with
        trace := s.trace ++
          [.bufReq c ((s.session c).buf.map fun a => (a, (s.session c).pos)) s.nextAnswer] } := by
  have hn : ¬ s.nextAnswer.cap < need := by omega
  unfold sxBufreq
  simp only [if_neg hn, State.setSession_setSession]
  simp [State.setSession, State.emit]

/-- The request and its answer when the capacity is not enough (44_sysex.md R227). -/
theorem sxBufreq_fault {c : Cable} {need : Nat} {s : State} (hf : s.fault = none)
    (h : s.nextAnswer.cap < need) :
    sxBufreq c need s =
      { s.dropAnswer.setSession c Session.empty with
        trace := s.trace ++
          [.bufReq c ((s.session c).buf.map fun a => (a, (s.session c).pos)) s.nextAnswer]
        fault := some .sysExNoBuffer } := by
  unfold sxBufreq
  simp [if_pos h, State.setSession, State.emit, State.latch, hf]

/-- The lent range, as a test and as a proposition (20_memory.md R58). -/
theorem Session.covers_iff (x : Session) (y : Nat) : x.covers y = true ↔ x.lends y := by
  cases h : x.buf <;> simp [Session.covers, Session.lends, h]

theorem mem_cables (c : Cable) : c ∈ cables := by revert c; decide

/-- An address is lent elsewhere unless the session is alone there (70_reset_and_hazards.md R322). -/
theorem State.lentElsewhere_eq_false (s : State) (c : Cable) (y : Nat) :
    s.lentElsewhere c y = false ↔ s.aloneAt c y := by
  simp only [State.lentElsewhere, State.aloneAt, List.any_eq_false, Bool.and_eq_true, bne_iff_ne,
    Session.covers_iff, not_and]
  exact ⟨fun h d hd => h d (mem_cables d) hd, fun h d _ hd => h d hd⟩

/-- What lands depends on the sessions and the draw alone. -/
theorem State.landing_congr {s t : State} (c : Cable) (h : ∀ d, d ≠ c → t.session d = s.session d)
    (hd : t.draws = s.draws) (x : Nat) (bs : List Byte) : t.landing c x bs = s.landing c x bs := by
  have he : ∀ y, t.lentElsewhere c y = s.lentElsewhere c y := by
    intro y
    simp only [State.lentElsewhere]
    congr 1
    funext d
    by_cases hc : d = c
    · simp [hc]
    · rw [h d hc]
  induction bs generalizing x with
  | nil => rfl
  | cons b bs ih => rw [State.landing, State.landing, he, hd, ih]

@[simp] theorem State.landing_length (s : State) (c : Cable) (x : Nat) (bs : List Byte) :
    (s.landing c x bs).length = bs.length := by
  induction bs generalizing x with
  | nil => rfl
  | cons b bs ih => simp [State.landing, ih]

/-- The bytes that land are those stored, but where another session's buffer overlaps (20_memory.md R65;
93_implementation_defined.md U19). -/
theorem State.landing_storedAs (s : State) (c : Cable) (x : Nat) (bs : List Byte) :
    StoredAs s c x bs (s.landing c x bs) := by
  refine ⟨s.landing_length c x bs, ?_⟩
  induction bs generalizing x with
  | nil => intro k hk; exact absurd hk (Nat.not_lt_zero k)
  | cons b bs ih =>
    rintro (_ | k) hk ha
    · simp [State.landing, (State.lentElsewhere_eq_false s c x).mpr ha]
    · rw [State.landing, List.getElem?_cons_succ, List.getElem?_cons_succ]
      exact ih (x + 1) k (by simpa using hk) (by rwa [Nat.add_right_comm, Nat.add_assoc] )

/-- With disjoint buffers exactly the bytes stored land. -/
theorem StoredAs.eq {s : State} {c : Cable} {a : Nat} {bs vs : List Byte} (h : StoredAs s c a bs vs)
    (ha : ∀ k, k < bs.length → s.aloneAt c (a + k)) : vs = bs := by
  refine List.ext_getElem? fun k => ?_
  by_cases hk : k < bs.length
  · exact h.2 k hk (ha k hk)
  · have hl : vs.length = bs.length := h.1
    rw [List.getElem?_eq_none (by omega), List.getElem?_eq_none (by omega)]

/-- Which bytes may stand depends on the sessions alone. -/
theorem StoredAs.congr {s t : State} (h : ∀ d, t.session d = s.session d) {c : Cable} {a : Nat}
    {bs vs : List Byte} (hs : StoredAs t c a bs vs) : StoredAs s c a bs vs :=
  ⟨hs.1, fun k hk ha => hs.2 k hk fun d hd => by rw [h d]; exact ha d hd⟩

/-- Bytes stored behind the ones the buffer holds (44_sysex.md R221). -/
theorem sxStore_some {c : Cable} {bs : List Byte} {s : State} {a : Nat} (h : (s.session c).buf = some a) :
    sxStore c bs s =
      { s.setSession c ⟨some a, (s.session c).pos + bs.length, (s.session c).capLeft - bs.length⟩ with
        sxmem := s.sxmem.store (a + (s.session c).pos) (s.landing c (a + (s.session c).pos) bs)
        draws := s.draws + 1 } := by
  simp [sxStore, h, State.setSession]

theorem sxDeliver_some {c : Cable} {s : State} {a : Nat} (h : (s.session c).buf = some a) :
    sxDeliver c s =
      { s.setSession c Session.empty with
        trace := s.trace ++ [.sysExMsg c a (s.session c).pos] } := by
  simp [sxDeliver, h, State.setSession, State.emit]

/-- Store then deliver, in a buffer that is there (44_sysex.md R223). -/
theorem sxDeliver_sxStore {c : Cable} {bs : List Byte} {s : State} {a : Nat}
    (h : (s.session c).buf = some a) :
    sxDeliver c (sxStore c bs s) =
      { s.setSession c Session.empty with
        sxmem := s.sxmem.store (a + (s.session c).pos) (s.landing c (a + (s.session c).pos) bs)
        draws := s.draws + 1
        trace := s.trace ++ [.sysExMsg c a ((s.session c).pos + bs.length)] } := by
  have hs : (sxStore c bs s).session c =
      ⟨some a, (s.session c).pos + bs.length, (s.session c).capLeft - bs.length⟩ := by
    rw [sxStore_some h]
    exact (State.session_congr rfl c).trans (State.session_setSession_self s c _)
  rw [sxDeliver_some (a := a) (by rw [hs]), hs, sxStore_some h]
  simp [State.setSession]

/-- `SX_APPEND` with room (44_sysex.md R221). -/
theorem sxAppend_room {c : Cable} {b1 b2 b3 : Byte} {s : State} {a : Nat} (hf : s.fault = none)
    (hb : (s.session c).buf = some a) (hr : 3 ≤ (s.session c).capLeft) :
    sxAppend c b1 b2 b3 s = sxStore c [b1, b2, b3] s := by
  have hn : ¬ ((s.session c).buf = none ∨ (s.session c).capLeft < 3) := by
    rintro (h | h)
    · simp [hb] at h
    · omega
  simp only [sxAppend, if_neg hn]
  simp [hf]

/-- A store into the buffer just answered (44_sysex.md R221, R222): it takes the draw after the answer's. -/
theorem sxStore_sxBufreq {c : Cable} {need : Nat} {bs : List Byte} {s : State}
    (h : need ≤ s.nextAnswer.cap) :
    sxStore c bs (sxBufreq c need s) =
      { s.dropAnswer.setSession c ⟨some s.nextAnswer.buf, bs.length, s.nextAnswer.cap - bs.length⟩ with
        sxmem := s.sxmem.store s.nextAnswer.buf (s.dropAnswer.landing c s.nextAnswer.buf bs)
        draws := s.dropAnswer.draws + 1
        trace := s.trace ++
          [.bufReq c ((s.session c).buf.map fun a => (a, (s.session c).pos)) s.nextAnswer] } := by
  have hs : (sxBufreq c need s).session c = ⟨some s.nextAnswer.buf, 0, s.nextAnswer.cap⟩ := by
    rw [sxBufreq_ok h]
    exact (State.session_congr rfl c).trans (State.session_setSession_self _ c _)
  have hl : (sxBufreq c need s).landing c s.nextAnswer.buf bs =
      s.dropAnswer.landing c s.nextAnswer.buf bs := by
    refine State.landing_congr c (fun d hd => ?_) (by rw [sxBufreq_ok h]; rfl) _ _
    rw [sxBufreq_ok h]
    exact (State.session_congr rfl d).trans (State.session_setSession_ne _ _ hd)
  rw [sxStore_some (a := s.nextAnswer.buf) (by rw [hs]), hs, Nat.add_zero, hl, sxBufreq_ok h]
  simp [State.setSession]

/-- The same, delivered at once (44_sysex.md R223, R224). -/
theorem sxDeliver_sxStore_sxBufreq {c : Cable} {need : Nat} {bs : List Byte} {s : State}
    (h : need ≤ s.nextAnswer.cap) :
    sxDeliver c (sxStore c bs (sxBufreq c need s)) =
      { s.dropAnswer.setSession c Session.empty with
        sxmem := s.sxmem.store s.nextAnswer.buf (s.dropAnswer.landing c s.nextAnswer.buf bs)
        draws := s.dropAnswer.draws + 1
        trace := s.trace ++
          [.bufReq c ((s.session c).buf.map fun a => (a, (s.session c).pos)) s.nextAnswer,
            .sysExMsg c s.nextAnswer.buf bs.length] } := by
  have hs : (sxStore c bs (sxBufreq c need s)).session c =
      ⟨some s.nextAnswer.buf, bs.length, s.nextAnswer.cap - bs.length⟩ := by
    rw [sxStore_sxBufreq h]
    exact (State.session_congr rfl c).trans (State.session_setSession_self s.dropAnswer c _)
  rw [sxDeliver_some (a := s.nextAnswer.buf) (by rw [hs]), hs, sxStore_sxBufreq h]
  simp [State.setSession]

/-- `SX_APPEND` that asks for a buffer and gets a usable one (44_sysex.md R221, R222). -/
theorem sxAppend_request {c : Cable} {b1 b2 b3 : Byte} {s : State} (hf : s.fault = none)
    (hn : (s.session c).buf = none ∨ (s.session c).capLeft < 3) (hc : 3 ≤ s.nextAnswer.cap) :
    sxAppend c b1 b2 b3 s =
      { s.dropAnswer.setSession c ⟨some s.nextAnswer.buf, 3, s.nextAnswer.cap - 3⟩ with
        sxmem := s.sxmem.store s.nextAnswer.buf (s.dropAnswer.landing c s.nextAnswer.buf [b1, b2, b3])
        draws := s.dropAnswer.draws + 1
        trace := s.trace ++
          [.bufReq c ((s.session c).buf.map fun a => (a, (s.session c).pos)) s.nextAnswer] } := by
  have hfb : (sxBufreq c 3 s).fault = none := by rw [sxBufreq_ok hc]; simp [hf]
  simp only [sxAppend, if_pos hn, hfb, Option.isSome_none, Bool.false_eq_true, if_false]
  exact sxStore_sxBufreq hc

/-- `SX_APPEND` that asks for a buffer and gets one too small (44_sysex.md R227). -/
theorem sxAppend_fault {c : Cable} {b1 b2 b3 : Byte} {s : State} (hf : s.fault = none)
    (hn : (s.session c).buf = none ∨ (s.session c).capLeft < 3) (hc : s.nextAnswer.cap < 3) :
    sxAppend c b1 b2 b3 s = sxBufreq c 3 s := by
  simp only [sxAppend, if_pos hn]
  simp [sxBufreq_fault hf hc]

/-- `SX_TERM` with room (44_sysex.md R223). -/
theorem sxTerm_room {c : Cable} {bs : List Byte} {s : State} {a : Nat} (hf : s.fault = none)
    (hb : (s.session c).buf = some a) (hr : bs.length ≤ (s.session c).capLeft) :
    sxTerm c bs s = sxDeliver c (sxStore c bs s) := by
  have hl : ¬ (s.session c).capLeft < bs.length := by omega
  simp [sxTerm, sxTermRoom, hb, hl, hf]

/-- `SX_TERM` without a buffer or room, `TERM_POLICY = fault` (44_sysex.md R224). -/
theorem sxTerm_policy_fault {c : Cable} {bs : List Byte} {s : State} (hf : s.fault = none)
    (hp : s.cfg.termPolicy = .fault)
    (hn : (s.session c).buf = none ∨ (s.session c).capLeft < bs.length) :
    sxTerm c bs s =
      { s with fault := some (if (s.session c).buf = none then .sysExTermNoSession else .sysExOverrun) } := by
  by_cases hb : (s.session c).buf = none
  · simp [sxTerm, sxTermRoom, termRoom, hp, hb, State.latch, hf]
  · have hl := hn.resolve_left hb
    simp [sxTerm, sxTermRoom, termRoom, hp, hb, hl, State.latch, hf]

/-- `SX_TERM` without a buffer or room, `TERM_POLICY = request` (44_sysex.md R224). -/
theorem sxTerm_policy_request {c : Cable} {bs : List Byte} {s : State}
    (hp : s.cfg.termPolicy = .request)
    (hn : (s.session c).buf = none ∨ (s.session c).capLeft < bs.length) :
    sxTerm c bs s =
      if (sxBufreq c bs.length s).fault.isSome then sxBufreq c bs.length s
      else sxDeliver c (sxStore c bs (sxBufreq c bs.length s)) := by
  by_cases hb : (s.session c).buf = none
  · simp [sxTerm, sxTermRoom, termRoom, hp, hb]
  · have hl := hn.resolve_left hb
    simp [sxTerm, sxTermRoom, termRoom, hp, hb, hl]

end Sys2Proof.Machine
end

