-- ==== Sys2Proof/Laws/Decoder.lean ====
section
/-! SUPPORT. Everything the decoder and the reassembler can do to the state: the frame of a packet and
of a chunk (10_state.md R34; 43_decode.md R200; 44_sysex.md R228). -/

namespace Sys2Proof.Machine

/-- What decoding packets whose cables satisfy `P` can change: sessions of those cables, SX, the fault
register, the consumer's answers, and the trace, which grows by events of those cables. -/
structure DecodeFrame (P : Cable → Prop) (s t : State) : Prop where
  isOpen : t.isOpen = s.isOpen
  sending : t.sending = s.sending
  txq : t.txq = s.txq
  rxActive : t.rxActive = s.rxActive
  rxbuf0 : t.rxbuf0 = s.rxbuf0
  rxbuf1 : t.rxbuf1 = s.rxbuf1
  txInflight : t.txInflight = s.txInflight
  rxArmed : t.rxArmed = s.rxArmed
  cfg : t.cfg = s.cfg
  inbox : t.inbox = s.inbox
  outcome : t.outcome = s.outcome
  result : t.result = s.result
  session : ∀ c, ¬ P c → t.session c = s.session c
  trace : ∃ ev, t.trace = s.trace ++ ev ∧ ∀ e ∈ ev, ∃ c, P c ∧ eventCable e = some c

namespace DecodeFrame

theorem refl (P : Cable → Prop) (s : State) : DecodeFrame P s s :=
  { isOpen := rfl, sending := rfl, txq := rfl, rxActive := rfl, rxbuf0 := rfl, rxbuf1 := rfl,
    txInflight := rfl, rxArmed := rfl, cfg := rfl, inbox := rfl,
    outcome := rfl, result := rfl, session := fun _ _ => rfl, trace := ⟨[], by simp, by simp⟩ }

theorem trans {P : Cable → Prop} {s t u : State} (h : DecodeFrame P s t) (k : DecodeFrame P t u) :
    DecodeFrame P s u := by
  obtain ⟨ev, he, hc⟩ := h.trace
  obtain ⟨ev', he', hc'⟩ := k.trace
  exact
  { isOpen := k.isOpen.trans h.isOpen, sending := k.sending.trans h.sending, txq := k.txq.trans h.txq,
    rxActive := k.rxActive.trans h.rxActive, rxbuf0 := k.rxbuf0.trans h.rxbuf0,
    rxbuf1 := k.rxbuf1.trans h.rxbuf1, txInflight := k.txInflight.trans h.txInflight,
    rxArmed := k.rxArmed.trans h.rxArmed, cfg := k.cfg.trans h.cfg, inbox := k.inbox.trans h.inbox,
    outcome := k.outcome.trans h.outcome, result := k.result.trans h.result,
    session := fun c hp => (k.session c hp).trans (h.session c hp),
    trace := ⟨ev ++ ev', by rw [he', he, List.append_assoc], by
      intro e hm
      rcases List.mem_append.mp hm with hm | hm
      · exact hc e hm
      · exact hc' e hm⟩ }

theorem mono {P Q : Cable → Prop} {s t : State} (hq : ∀ c, P c → Q c) (h : DecodeFrame P s t) :
    DecodeFrame Q s t := by
  obtain ⟨ev, he, hc⟩ := h.trace
  exact { h with
    session := fun c hn => h.session c (fun hp => hn (hq c hp))
    trace := ⟨ev, he, fun e hm => (hc e hm).imp fun c ⟨hp, hk⟩ => ⟨hq c hp, hk⟩⟩ }

/-- An RX buffer is not written while decoding (42_rxhandoff.md R160). -/
theorem rxbuf {P : Cable → Prop} {s t : State} (h : DecodeFrame P s t) (f : RxIdx) :
    t.rxbuf f = s.rxbuf f := State.rxbuf_congr h.rxbuf0 h.rxbuf1 f

theorem rxPacket {P : Cable → Prop} {s t : State} (h : DecodeFrame P s t) (f : RxIdx) (off : Nat) :
    t.rxPacket f off = s.rxPacket f off := by
  simp [State.rxPacket, h.rxbuf f]

theorem packetsFrom {P : Cable → Prop} {s t : State} (h : DecodeFrame P s t) (f : RxIdx) (k off : Nat) :
    t.packetsFrom f k off = s.packetsFrom f k off := by
  induction k generalizing off with
  | zero => rfl
  | succ k ih => rw [State.packetsFrom, State.packetsFrom, h.rxPacket, ih]

end DecodeFrame

theorem State.session_dropAnswer (s : State) (c : Cable) : s.dropAnswer.session c = s.session c :=
  State.session_congr (by simp) c

theorem emit_frame (s : State) (c : Cable) {e : Event} (h : eventCable e = some c) :
    DecodeFrame (· = c) s (s.emit e) :=
  { DecodeFrame.refl _ s with
    trace := ⟨[e], by simp, by simp [h]⟩ }

theorem setSession_frame (s : State) (c : Cable) (v : Session) :
    DecodeFrame (· = c) s (s.setSession c v) :=
  { DecodeFrame.refl _ s with
    session := fun _ hn => State.session_setSession_ne s v hn }

theorem latch_frame (P : Cable → Prop) (s : State) (x : FaultCause) : DecodeFrame P s (s.latch x) :=
  { DecodeFrame.refl _ s with }

theorem dropAnswer_frame (P : Cable → Prop) (s : State) : DecodeFrame P s s.dropAnswer :=
  { isOpen := by simp, sending := by simp, txq := by simp, rxActive := by simp, rxbuf0 := by simp,
    rxbuf1 := by simp, txInflight := by simp, rxArmed := by simp, cfg := by simp, inbox := by simp,
    outcome := by simp, result := by simp, session := fun c _ => State.session_dropAnswer s c,
    trace := ⟨[], by simp, by simp⟩ }

theorem sxmem_frame (P : Cable → Prop) (s : State) (m : Memory) (n : Nat) :
    DecodeFrame P s { s with sxmem := m, draws := n } :=
  { DecodeFrame.refl P s with }

theorem sxBufreq_frame (c : Cable) (need : Nat) (s : State) :
    DecodeFrame (· = c) s (sxBufreq c need s) := by
  have h : DecodeFrame (· = c) s
      ((s.dropAnswer.emit (.bufReq c (s.session c).prev s.nextAnswer)).setSession c Session.empty) :=
    ((dropAnswer_frame _ s).trans (emit_frame _ c rfl)).trans (setSession_frame _ c _)
  unfold sxBufreq
  dsimp only
  split
  · exact h.trans (latch_frame _ _ _)
  · exact h.trans (setSession_frame _ c _)

theorem sxStore_frame (c : Cable) (bs : List Byte) (s : State) :
    DecodeFrame (· = c) s (sxStore c bs s) := by
  unfold sxStore
  dsimp only
  split
  · exact .refl _ s
  · exact (sxmem_frame _ s _ _).trans (setSession_frame _ c _)

theorem sxDeliver_frame (c : Cable) (s : State) : DecodeFrame (· = c) s (sxDeliver c s) := by
  unfold sxDeliver
  dsimp only
  split
  · exact .refl _ s
  · exact (emit_frame s c rfl).trans (setSession_frame _ c _)

theorem sxAppend_frame (c : Cable) (b1 b2 b3 : Byte) (s : State) :
    DecodeFrame (· = c) s (sxAppend c b1 b2 b3 s) := by
  have h : DecodeFrame (· = c) s
      (if (s.session c).buf = none ∨ (s.session c).capLeft < 3 then sxBufreq c 3 s else s) := by
    split
    · exact sxBufreq_frame c 3 s
    · exact .refl _ s
  generalize ht : (if (s.session c).buf = none ∨ (s.session c).capLeft < 3 then sxBufreq c 3 s else s) = t at h
  simp only [sxAppend, ht]
  split
  · exact h
  · exact h.trans (sxStore_frame c _ _)

theorem termRoom_frame (c : Cable) (n : Nat) (x : FaultCause) (s : State) :
    DecodeFrame (· = c) s (termRoom c n x s) := by
  unfold termRoom
  split
  · exact latch_frame _ s x
  · exact sxBufreq_frame c n s

theorem sxTermRoom_frame (c : Cable) (n : Nat) (s : State) :
    DecodeFrame (· = c) s (sxTermRoom c n s) := by
  unfold sxTermRoom
  dsimp only
  split
  · exact termRoom_frame c n _ s
  · split
    · exact termRoom_frame c n _ s
    · exact .refl _ s

theorem sxTerm_frame (c : Cable) (bs : List Byte) (s : State) :
    DecodeFrame (· = c) s (sxTerm c bs s) := by
  unfold sxTerm
  dsimp only
  split
  · exact sxTermRoom_frame c _ s
  · exact ((sxTermRoom_frame c _ s).trans (sxStore_frame c bs _)).trans (sxDeliver_frame c _)

/-- One packet touches its own cable only (43_decode.md R200). -/
theorem packetEffect_frame (p : Packet) (s : State) :
    DecodeFrame (· = p.cable) s (packetEffect p s) := by
  unfold packetEffect
  cases rxRow p.cin p.p1 <;> first
    | exact emit_frame s p.cable rfl
    | exact sxAppend_frame _ _ _ _ s
    | exact sxTerm_frame _ _ s

/-- A chunk touches the cables of its packets only. -/
theorem decodeFrom_frame {P : Cable → Prop} (f : RxIdx) (k off : Nat) (s : State)
    (h : ∀ p ∈ s.packetsFrom f k off, P p.cable) : DecodeFrame P s (decodeFrom f k off s) := by
  induction k generalizing off s with
  | zero => exact .refl P s
  | succ k ih =>
    have h1 : DecodeFrame P s (packetEffect (s.rxPacket f off) s) :=
      (packetEffect_frame _ s).mono fun c (hc : c = _) => by
        subst hc; exact h _ (by simp [State.packetsFrom])
    simp only [decodeFrom]
    split
    · exact h1
    · refine h1.trans (ih (off + 4) _ fun p hp => h p ?_)
      rw [h1.packetsFrom] at hp
      exact List.mem_cons_of_mem _ hp

theorem decodeChunk_frame (f : RxIdx) (len : Nat) (s : State) :
    DecodeFrame (fun c => ∃ p ∈ s.packetsFrom f (len / 4) 0, p.cable = c) s (decodeChunk f len s) :=
  decodeFrom_frame f (len / 4) 0 s fun p hp => ⟨p, hp, rfl⟩

/-- An instruction's payload of its own is one packet's effect. -/
theorem packetEffect_eq_opOf (p : Packet) (s : State) :
    opOf (decodePacket p) s = .ok (packetEffect p s) := by
  unfold decodePacket packetEffect RxRow.toInstr
  split <;> simp_all [opOf]

/-! Decoding neither reads nor writes the last operation's outcome, so a chunk is the same run of its
packets whether each is an operation of its own or not -/

theorem nextAnswer_outcome (s : State) (o : OpOutcome) :
    ({ s with outcome := o } : State).nextAnswer = s.nextAnswer := rfl

theorem dropAnswer_outcome (s : State) (o : OpOutcome) :
    ({ s with outcome := o } : State).dropAnswer = { s.dropAnswer with outcome := o } := by
  unfold State.dropAnswer
  cases h : s.answers <;> simp

theorem sxBufreq_outcome (c n) (s : State) (o : OpOutcome) :
    sxBufreq c n { s with outcome := o } = { sxBufreq c n s with outcome := o } := by
  unfold sxBufreq
  simp only [nextAnswer_outcome, dropAnswer_outcome]
  split <;> rfl

theorem sxStore_outcome (c bs) (s : State) (o : OpOutcome) :
    sxStore c bs { s with outcome := o } = { sxStore c bs s with outcome := o } := by
  cases h : (s.session c).buf with
  | none =>
    have h' : (({ s with outcome := o } : State).session c).buf = none := h
    simp [sxStore, h, h']
  | some a =>
    have h' : (({ s with outcome := o } : State).session c).buf = some a := h
    have hl : ∀ x, ({ s with outcome := o } : State).landing c x bs = s.landing c x bs := fun x =>
      State.landing_congr (s := s) (t := { s with outcome := o }) c (fun _ _ => rfl) rfl x bs
    rw [sxStore_some h, sxStore_some h', hl]; rfl

theorem sxDeliver_outcome (c) (s : State) (o : OpOutcome) :
    sxDeliver c { s with outcome := o } = { sxDeliver c s with outcome := o } := by
  cases h : (s.session c).buf with
  | none =>
    have h' : (({ s with outcome := o } : State).session c).buf = none := h
    simp [sxDeliver, h, h']
  | some a =>
    have h' : (({ s with outcome := o } : State).session c).buf = some a := h
    rw [sxDeliver_some h, sxDeliver_some h']; rfl

theorem sxAppend_outcome (c b1 b2 b3) (s : State) (o : OpOutcome) :
    sxAppend c b1 b2 b3 { s with outcome := o } = { sxAppend c b1 b2 b3 s with outcome := o } := by
  unfold sxAppend
  by_cases h : (s.session c).buf = none ∨ (s.session c).capLeft < 3
  · have h' : (({ s with outcome := o } : State).session c).buf = none ∨ (({ s with outcome := o } : State).session c).capLeft < 3 := h
    simp only [if_pos h, if_pos h', sxBufreq_outcome, sxStore_outcome]
    split <;> rfl
  · have h' : ¬ ((({ s with outcome := o } : State).session c).buf = none ∨ (({ s with outcome := o } : State).session c).capLeft < 3) := h
    simp only [if_neg h, if_neg h', sxStore_outcome]
    split <;> rfl

theorem sxTermRoom_outcome (c n) (s : State) (o : OpOutcome) :
    sxTermRoom c n { s with outcome := o } = { sxTermRoom c n s with outcome := o } := by
  have hr : ∀ x, termRoom c n x { s with outcome := o } = { termRoom c n x s with outcome := o } := by
    intro x
    unfold termRoom
    cases h : s.cfg.termPolicy
    · rfl
    · simp [sxBufreq_outcome]
  unfold sxTermRoom
  by_cases h : (s.session c).buf = none
  · have h' : (({ s with outcome := o } : State).session c).buf = none := h
    simp only [if_pos h, if_pos h', hr]
  · have h' : ¬ (({ s with outcome := o } : State).session c).buf = none := h
    by_cases hl : (s.session c).capLeft < n
    · have hl' : (({ s with outcome := o } : State).session c).capLeft < n := hl
      simp only [if_neg h, if_neg h', if_pos hl, if_pos hl', hr]
    · have hl' : ¬ (({ s with outcome := o } : State).session c).capLeft < n := hl
      simp only [if_neg h, if_neg h', if_neg hl, if_neg hl']

theorem sxTerm_outcome (c bs) (s : State) (o : OpOutcome) :
    sxTerm c bs { s with outcome := o } = { sxTerm c bs s with outcome := o } := by
  unfold sxTerm
  simp only [sxTermRoom_outcome, sxStore_outcome, sxDeliver_outcome]
  split <;> rfl

theorem packetEffect_outcome (p : Packet) (s : State) (o : OpOutcome) :
    packetEffect p { s with outcome := o } = { packetEffect p s with outcome := o } := by
  unfold packetEffect
  cases rxRow p.cin p.p1 <;> first
    | rfl
    | exact sxAppend_outcome _ _ _ _ s o
    | exact sxTerm_outcome _ _ s o

theorem decodeFrom_outcome (f k off) (s : State) (o : OpOutcome) :
    decodeFrom f k off { s with outcome := o } = { decodeFrom f k off s with outcome := o } := by
  induction k generalizing off s with
  | zero => rfl
  | succ k ih =>
    simp only [decodeFrom]
    have hp : ({ s with outcome := o } : State).rxPacket f off = s.rxPacket f off := rfl
    rw [hp, packetEffect_outcome]
    simp only [ih]
    split <;> rfl

/-- A packet row is one invocation of its effect (43_decode.md R180). -/
theorem exec_decodePacket (p : Packet) (s : State) :
    exec (decodePacket p) s = invoke (fun s => .ok (packetEffect p s)) s := by
  have h : ¬ Stops (decodePacket p) s := by
    unfold decodePacket RxRow.toInstr
    split <;> simp [Stops]
  have hr : decodePacket p ≠ .reset := by
    unfold decodePacket RxRow.toInstr; split <;> simp
  have hd : delivered (decodePacket p) s = s := by
    unfold decodePacket RxRow.toInstr; split <;> rfl
  rw [exec_eq_invoke hr h, hd]
  have : opOf (decodePacket p) = fun s => .ok (packetEffect p s) := by
    funext s; exact packetEffect_eq_opOf p s
  rw [this]

end Sys2Proof.Machine
end

