-- ==== Sys2Proof/Laws/TxFlow.lean ====
section
/-! SUPPORT. The flow controller's steps: one equation per way each can go, for its callers to cite. -/

namespace Sys2Proof.Machine

/-- The empty submission is a no-op (41_txflow.md R140). -/
theorem submit_nil (s : State) : submit [] s = .ok s := rfl

/-- Nothing is queued when not all of it fits (41_txflow.md R148). -/
theorem submit_full {f : List Byte} {s : State} (hf : f ≠ []) (h : s.cfg.qCap < s.txq.length + f.length) :
    submit f s = .error .queueFull := by
  simp [submit, hf, h]

/-- A submission that fits (41_txflow.md R140). -/
theorem submit_fits {f : List Byte} {s : State} (hf : f ≠ []) (h : s.txq.length + f.length ≤ s.cfg.qCap) :
    submit f s = .ok (submitted f s) := by
  have hn : ¬ s.cfg.qCap < s.txq.length + f.length := by omega
  cases hs : s.sending <;> simp [submit, submitted, hf, hn, hs, handover, State.submitOut, State.setSending]

/-- The three ways a submission goes. -/
theorem submit_cases (f : List Byte) (s : State) :
    (f = [] ∧ submit f s = .ok s) ∨
    (f ≠ [] ∧ s.cfg.qCap < s.txq.length + f.length ∧ submit f s = .error .queueFull) ∨
    (f ≠ [] ∧ s.txq.length + f.length ≤ s.cfg.qCap ∧ submit f s = .ok (submitted f s)) := by
  by_cases hf : f = []
  · exact .inl ⟨hf, hf ▸ submit_nil s⟩
  · by_cases h : s.cfg.qCap < s.txq.length + f.length
    · exact .inr (.inl ⟨hf, h, submit_full hf h⟩)
    · exact .inr (.inr ⟨hf, by omega, submit_fits hf (by omega)⟩)

/-- Everything a submission can change (10_state.md R34; 60_exceptions.md R282). -/
theorem submitted_frame (f : List Byte) (s : State) :
    submitted f s = { s with
      txq := (submitted f s).txq, sending := (submitted f s).sending
      txInflight := (submitted f s).txInflight
      trace := (submitted f s).trace } := by
  cases hs : s.sending <;> simp [submitted, hs]

/-- A submission puts its bytes behind those sent and queued before (41_txflow.md R147). -/
theorem submitted_bytes (f : List Byte) (s : State) :
    ∃ ev, (submitted f s).trace = s.trace ++ ev ∧
      sentBytes ev ++ (submitted f s).txq = s.txq ++ f ∧ submitCount ev ≤ 1 := by
  cases hs : s.sending
  · exact ⟨[.submitOut ((s.txq ++ f).take (min (s.txq ++ f).length s.cfg.maxXfer))],
      by simp [submitted, hs], by simp [submitted, hs, sentBytes], by simp [submitCount]⟩
  · exact ⟨[], by simp [submitted, hs], by simp [submitted, hs, sentBytes], by simp [submitCount]⟩

/-- HANDOVER's frame and its one event (41_txflow.md R141). -/
theorem handover_eq (s : State) :
    handover s = { s with
      txq := s.txq.drop (min s.txq.length s.cfg.maxXfer)
      trace := s.trace ++ [.submitOut (s.txq.take (min s.txq.length s.cfg.maxXfer))]
      txInflight := some (s.txq.take (min s.txq.length s.cfg.maxXfer)) } := rfl

@[simp] theorem sentBytes_append (a b : List Event) : sentBytes (a ++ b) = sentBytes a ++ sentBytes b := by
  induction a with
  | nil => rfl
  | cons e a ih => cases e <;> simp [sentBytes, ih]

@[simp] theorem submitCount_append (a b : List Event) :
    submitCount (a ++ b) = submitCount a + submitCount b := by
  induction a with
  | nil => simp [submitCount]
  | cons e a ih => cases e <;> simp [submitCount, ih]; omega

/-- `ENC_SHORT` answers one packet or the length error (40_packetizer.md R110, R119). -/
theorem encShort_cases (p : Params) (c : Cable) (m : List Byte) :
    ((m.length = 0 ∨ 3 < m.length) ∧ encShort p c m = .error .invalidMessageLength) ∨
    (∃ s data, m = s :: data ∧ data.length ≤ 2 ∧ encShort p c m = .ok (frameShort p c s data)) := by
  match m with
  | [] => exact .inl ⟨.inl rfl, rfl⟩
  | s :: data =>
    by_cases h : data.length ≤ 2
    · exact .inr ⟨s, data, rfl, h, by simp [encShort, h]⟩
    · exact .inl ⟨.inr (by simp; omega), by simp [encShort, h]⟩

/-! What an operation of an agent has done when it answers no error -/

theorem submit_ok {f : List Byte} {s u : State} (h : submit f s = .ok u) :
    (f = [] ∧ u = s) ∨
    (f ≠ [] ∧ s.txq.length + f.length ≤ s.cfg.qCap ∧ u = submitted f s) := by
  rcases submit_cases f s with ⟨hf, he⟩ | ⟨hf, _, he⟩ | ⟨hf, hq, he⟩ <;> rw [he] at h
  · exact .inl ⟨hf, (Except.ok.inj h).symm⟩
  · simp at h
  · exact .inr ⟨hf, hq, (Except.ok.inj h).symm⟩

theorem write_ok {c : Cable} {m : List Byte} {s u : State} (h : write c m s = .ok u) :
    s.isOpen = true ∧ ∃ b data, m = b :: data ∧ data.length ≤ 2 ∧
      submit (frameShort s.cfg c b data) s = .ok u := by
  cases ho : s.isOpen
  · simp [write, ho] at h
  · rcases encShort_cases s.cfg c m with ⟨_, he⟩ | ⟨b, data, rfl, hd, he⟩
    · simp [write, ho, he] at h
    · exact ⟨rfl, b, data, rfl, hd, by simpa [write, ho, he] using h⟩

theorem sysexWrite_ok {c : Cable} {bs : List Byte} {s u : State} (h : sysexWrite c bs s = .ok u) :
    s.isOpen = true ∧ submit (frameSysex c bs) s = .ok u := by
  cases ho : s.isOpen
  · simp [sysexWrite, ho] at h
  · exact ⟨rfl, by simpa [sysexWrite, ho] using h⟩

theorem sendRaw_ok {c : Cable} {f : List Byte} {s u : State} (h : sendRaw c f s = .ok u) :
    s.isOpen = true ∧ f.length % 4 = 0 ∧ submit f s = .ok u := by
  cases ho : s.isOpen
  · simp [sendRaw, ho] at h
  · by_cases hm : f.length % 4 = 0
    · exact ⟨rfl, hm, by simpa [sendRaw, ho, hm] using h⟩
    · simp [sendRaw, ho, hm] at h

/-- `TX_COMPLETE` does nothing, or hands over, or clears `sending` (41_txflow.md R142, R143). -/
theorem txComplete_ok {st : XferStatus} {s u : State} (h : txComplete st s = .ok u) :
    u = s ∨ (s.isOpen = true ∧ st = .success ∧
      ∃ t, ((s.txq = [] ∧ t = s.setSending false) ∨ (s.txq ≠ [] ∧ t = handover s)) ∧
        u = if s.sending then t.emit .txDone else t) := by
  cases ho : s.isOpen
  · simp [txComplete, ho] at h; exact .inl h.symm
  · cases st with
    | success =>
      by_cases hq : s.txq = []
      · exact .inr ⟨rfl, rfl, _, .inl ⟨hq, rfl⟩, by simpa [txComplete, ho, hq] using h.symm⟩
      · exact .inr ⟨rfl, rfl, _, .inr ⟨hq, rfl⟩, by simpa [txComplete, ho, hq] using h.symm⟩
    | other => simp [txComplete, ho] at h
    | _ => simp [txComplete, ho] at h; exact .inl h.symm

/-- `RX_COMPLETE` does nothing, or latches the length fault, or accepts the chunk (42_rxhandoff.md R160
to R162). -/
theorem rxComplete_ok {st : XferStatus} {d : List Byte} {s u : State} (h : rxComplete st d s = .ok u) :
    u = s ∨ (s.isOpen = true ∧ st = .success ∧
      (((d.length % 4 ≠ 0 ∨ s.cfg.rxBufSize < d.length) ∧ u = s.latch .badChunkLength) ∨
       (d.length % 4 = 0 ∧ d.length ≤ s.cfg.rxBufSize ∧ u = rxAccept d s))) := by
  cases ho : s.isOpen
  · simp [rxComplete, ho] at h; exact .inl h.symm
  · cases st with
    | success =>
      by_cases hb : d.length % 4 ≠ 0 ∨ s.cfg.rxBufSize < d.length
      · exact .inr ⟨rfl, rfl, .inl ⟨hb, by simpa [rxComplete, ho, hb] using h.symm⟩⟩
      · obtain ⟨hm, hl⟩ := not_or.mp hb
        refine .inr ⟨rfl, rfl, .inr ⟨by simpa using hm, by simpa using hl, ?_⟩⟩
        simpa [rxComplete, ho, hb] using h.symm
    | other => simp [rxComplete, ho] at h
    | _ => simp [rxComplete, ho] at h; exact .inl h.symm

end Sys2Proof.Machine
end

