-- ==== Sys2Proof/Laws/Invariant.lean ====
section
/-! SUPPORT. The reassembler's share of the invariants: what holds of the sessions and of SX before a
packet holds after it (10_state.md R22, R37). -/

namespace Sys2Proof.Machine

/-- The clauses of `StateInv` about the sessions and SX. -/
structure SxInv (s : State) : Prop where
  sessions : ∀ c, (s.session c).Ok
  lent : ∀ c a, (s.session c).buf = some a →
    ∃ prev, Event.bufReq c prev ⟨a, (s.session c).pos + (s.session c).capLeft⟩ ∈ s.trace
  memory : s.sxmem.wf

theorem StateInv.sxInv {s : State} (h : StateInv s) : SxInv s := ⟨h.sessions, h.lent, h.memory⟩

namespace SxInv

/-- The three clauses depend on three fields; the trace may grow. -/
theorem congr {s t : State} (h : SxInv s) (hx : t.sx = s.sx) (hm : t.sxmem = s.sxmem)
    (ht : ∃ ev, t.trace = s.trace ++ ev) : SxInv t := by
  obtain ⟨ev, he⟩ := ht
  have hs := State.session_congr hx
  refine ⟨fun c => by rw [hs]; exact h.sessions c, fun c a hb => ?_, by rw [hm]; exact h.memory⟩
  rw [hs] at hb ⊢
  obtain ⟨prev, hp⟩ := h.lent c a hb
  exact ⟨prev, by rw [he]; exact List.mem_append_left _ hp⟩

/-- Every session empty. -/
theorem of_empty {s : State} (hx : s.sx = Vector.replicate 16 Session.empty) (hm : s.sxmem.wf) :
    SxInv s := by
  have hs := State.session_of_replicate hx
  exact ⟨fun c => by rw [hs]; exact fun _ => ⟨rfl, rfl⟩, fun c a hb => absurd ((hs c) ▸ hb) (by simp [Session.empty]), hm⟩

/-- One session emptied. -/
theorem clear {s : State} (h : SxInv s) (c : Cable) : SxInv (s.setSession c Session.empty) := by
  refine ⟨fun d => ?_, fun d a hb => ?_, h.memory⟩ <;> by_cases hd : d = c
  · subst hd; rw [State.session_setSession_self]; exact fun _ => ⟨rfl, rfl⟩
  · rw [State.session_setSession_ne _ _ hd]; exact h.sessions d
  · subst hd; rw [State.session_setSession_self] at hb; cases hb
  · rw [State.session_setSession_ne _ _ hd] at hb ⊢; exact h.lent d a hb

/-- A buffer installed whose request stands in the trace. -/
theorem install {s : State} (h : SxInv s) (c : Cable) (x : Session) (a : Nat) (hx : x.buf = some a)
    (hr : ∃ prev, Event.bufReq c prev ⟨a, x.pos + x.capLeft⟩ ∈ s.trace) : SxInv (s.setSession c x) := by
  refine ⟨fun d => ?_, fun d b hb => ?_, h.memory⟩ <;> by_cases hd : d = c
  · subst hd; rw [State.session_setSession_self]; intro hn; rw [hx] at hn; cases hn
  · rw [State.session_setSession_ne _ _ hd]; exact h.sessions d
  · subst hd
    rw [State.session_setSession_self] at hb ⊢
    have : a = b := Option.some.inj (hx.symm.trans hb)
    subst this; exact hr
  · rw [State.session_setSession_ne _ _ hd] at hb ⊢; exact h.lent d b hb

theorem sxBufreq {s : State} (h : SxInv s) (c : Cable) (need : Nat) : SxInv (sxBufreq c need s) := by
  have h1 : SxInv (s.dropAnswer.emit (.bufReq c (s.session c).prev s.nextAnswer)) :=
    h.congr (by simp [State.emit]) (by simp [State.emit]) ⟨_, by simp [State.emit]; rfl⟩
  unfold Machine.sxBufreq
  dsimp only
  split
  · exact (h1.clear c).congr rfl rfl ⟨[], by simp [State.latch]⟩
  · refine (h1.clear c).install c _ s.nextAnswer.buf rfl ⟨(s.session c).prev, ?_⟩
    simp [State.setSession, State.emit]

theorem sxStore {s : State} (h : SxInv s) (c : Cable) (bs : List Byte)
    (hr : bs.length ≤ (s.session c).capLeft) : SxInv (sxStore c bs s) := by
  cases hb : (s.session c).buf with
  | none => simpa [Machine.sxStore, hb] using h
  | some a =>
    obtain ⟨prev, hp⟩ := h.lent c a hb
    have h1 := h.install c ⟨some a, (s.session c).pos + bs.length, (s.session c).capLeft - bs.length⟩ a rfl
      ⟨prev, by
        have e : (s.session c).pos + bs.length + ((s.session c).capLeft - bs.length) =
          (s.session c).pos + (s.session c).capLeft := by omega
        simpa [e] using hp⟩
    rw [sxStore_some hb]
    exact ⟨fun d => h1.sessions d, fun d b hd => h1.lent d b hd, Memory.wf_store h.memory _ _⟩

theorem sxDeliver {s : State} (h : SxInv s) (c : Cable) : SxInv (sxDeliver c s) := by
  cases hb : (s.session c).buf with
  | none => simpa [Machine.sxDeliver, hb] using h
  | some a =>
    rw [sxDeliver_some hb]
    exact (h.clear c).congr rfl rfl ⟨_, rfl⟩

theorem sxAppend {s : State} (h : SxInv s) (hf : s.fault = none) (c : Cable) (b1 b2 b3 : Byte) :
    SxInv (sxAppend c b1 b2 b3 s) := by
  by_cases hn : (s.session c).buf = none ∨ (s.session c).capLeft < 3
  · by_cases hc : s.nextAnswer.cap < 3
    · rw [sxAppend_fault hf hn hc]; exact h.sxBufreq c 3
    · have h1 := h.sxBufreq c 3
      have hs : ((Machine.sxBufreq c 3 s).session c).capLeft = s.nextAnswer.cap := by
        rw [sxBufreq_ok (by omega)]
        exact congrArg Session.capLeft
          ((State.session_congr rfl c).trans (State.session_setSession_self _ c _))
      unfold Machine.sxAppend
      dsimp only
      rw [if_pos hn]
      split
      · exact h1
      · exact h1.sxStore c _ (by rw [hs]; simp; omega)
  · have hb : ∃ a, (s.session c).buf = some a :=
      Option.ne_none_iff_exists'.mp fun h => hn (.inl h)
    obtain ⟨a, hb⟩ := hb
    have hr : 3 ≤ (s.session c).capLeft := Nat.le_of_not_lt fun h => hn (.inr h)
    rw [sxAppend_room hf hb hr]
    exact h.sxStore c _ hr

theorem sxTerm {s : State} (h : SxInv s) (hf : s.fault = none) (c : Cable) (bs : List Byte) :
    SxInv (sxTerm c bs s) := by
  by_cases hn : (s.session c).buf = none ∨ (s.session c).capLeft < bs.length
  · cases hp : s.cfg.termPolicy with
    | fault => rw [sxTerm_policy_fault hf hp hn]; exact h.congr rfl rfl ⟨[], by simp⟩
    | request =>
      rw [sxTerm_policy_request hp hn]
      have h1 := h.sxBufreq c bs.length
      split
      · exact h1
      · next hfb =>
        refine (h1.sxStore c bs ?_).sxDeliver c
        by_cases hc : s.nextAnswer.cap < bs.length
        · rw [sxBufreq_fault hf hc] at hfb; simp at hfb
        · have hs : ((Machine.sxBufreq c bs.length s).session c).capLeft = s.nextAnswer.cap := by
            rw [sxBufreq_ok (by omega)]
            exact congrArg Session.capLeft
              ((State.session_congr rfl c).trans (State.session_setSession_self _ c _))
          omega
  · have hb : ∃ a, (s.session c).buf = some a :=
      Option.ne_none_iff_exists'.mp fun h => hn (.inl h)
    obtain ⟨a, hb⟩ := hb
    have hr : bs.length ≤ (s.session c).capLeft := Nat.le_of_not_lt fun h => hn (.inr h)
    rw [sxTerm_room hf hb hr]
    exact (h.sxStore c bs hr).sxDeliver c

theorem packetEffect {s : State} (h : SxInv s) (hf : s.fault = none) (p : Packet) :
    SxInv (packetEffect p s) := by
  unfold Machine.packetEffect
  cases rxRow p.cin p.p1 <;> first
    | exact h.congr rfl rfl ⟨_, rfl⟩
    | exact h.sxAppend hf _ _ _ _
    | exact h.sxTerm hf _ _

theorem decodeFrom {s : State} (h : SxInv s) (hf : s.fault = none) (f : RxIdx) (k off : Nat) :
    SxInv (decodeFrom f k off s) := by
  induction k generalizing off s with
  | zero => exact h
  | succ k ih =>
    have h1 := h.packetEffect hf (s.rxPacket f off)
    simp only [Machine.decodeFrom]
    split
    · exact h1
    · next hn => exact ih h1 (by simpa using hn) _

end SxInv

end Sys2Proof.Machine
end

