-- ==== Sys2Proof/Laws/PerInstr.lean ====
section
/-! SUPPORT. The family EncodeDecode: decoding what the encoder wrote gives the instruction back, one
lemma per constructor of Instr. -/

namespace Sys2Proof.Laws.EncodeDecode

/-- The round trip of one instruction. -/
def Statement (i : Instr) : Prop := i.wellFormed = true → (encode i).map decode = some i

/-- A packet row other than the one of p[1] = 0xF6: its CIN selects it. -/
theorem of_packet {i : Instr} {c : Cable} {n : Nibble} {p1 p2 p3 : Byte}
    (he : encode i = some (packetOf c n p1 p2 p3)) (hr : (rxRow n p1).toInstr c p1 p2 p3 = i) :
    Statement i := by
  intro _
  rw [he, Option.map_some, decode_packetOf, hr]

/-- A status byte decodes to its class (R86). -/
theorem of_status {i : Instr} {s : Byte} {r : StatusRow} {c : Cable} {d : List Byte}
    (he : encode i = some (.status s c d)) (hi : r.toInstr c s d = i) (hr : statusRow s = r) :
    Statement i := by
  intro _
  rw [he, Option.map_some, decode, hr, hi]

/-- An operation whose operands meet the condition of its rule. -/
theorem of_call {i : Instr} {p : Prop} [Decidable p] {f : p → Call} (h : p)
    (he : encode i = if h : p then some (.op (f h)) else none) (hi : (f h).toInstr = i) :
    (encode i).map decode = some i := by
  rw [he, dif_pos h, Option.map_some, decode, hi]

theorem rxCin0 (cable : Cable) (p1 p2 p3 : Byte) :
    Statement (.rxCin0 cable p1 p2 p3) := of_packet rfl rfl

theorem rxCin1 (cable : Cable) (p1 p2 p3 : Byte) :
    Statement (.rxCin1 cable p1 p2 p3) := of_packet rfl rfl

theorem rxCin2 (cable : Cable) (p1 p2 p3 : Byte) :
    Statement (.rxCin2 cable p1 p2 p3) := of_packet rfl rfl

theorem rxCin3 (cable : Cable) (p1 p2 p3 : Byte) :
    Statement (.rxCin3 cable p1 p2 p3) := of_packet rfl rfl

theorem rxCin4 (cable : Cable) (p1 p2 p3 : Byte) :
    Statement (.rxCin4 cable p1 p2 p3) := of_packet rfl rfl

theorem rxCin5F6 (cable : Cable) (p2 p3 : Byte) :
    Statement (.rxCin5F6 cable p2 p3) :=
  of_packet (n := 0x5#4) (p1 := 0xF6#8) rfl rfl

theorem rxCin5Term (cable : Cable) (p1 p2 p3 : Byte) :
    Statement (.rxCin5Term cable p1 p2 p3) := by
  intro h
  have hp : p1 ≠ 0xF6#8 := by simpa [Instr.wellFormed] using h
  exact of_packet (n := 0x5#4) rfl (by simp [rxRow, RxRow.toInstr, hp]) h

theorem rxCin6 (cable : Cable) (p1 p2 p3 : Byte) :
    Statement (.rxCin6 cable p1 p2 p3) := of_packet rfl rfl

theorem rxCin7 (cable : Cable) (p1 p2 p3 : Byte) :
    Statement (.rxCin7 cable p1 p2 p3) := of_packet rfl rfl

theorem rxCin8 (cable : Cable) (p1 p2 p3 : Byte) :
    Statement (.rxCin8 cable p1 p2 p3) := of_packet rfl rfl

theorem rxCin9 (cable : Cable) (p1 p2 p3 : Byte) :
    Statement (.rxCin9 cable p1 p2 p3) := of_packet rfl rfl

theorem rxCinA (cable : Cable) (p1 p2 p3 : Byte) :
    Statement (.rxCinA cable p1 p2 p3) := of_packet rfl rfl

theorem rxCinB (cable : Cable) (p1 p2 p3 : Byte) :
    Statement (.rxCinB cable p1 p2 p3) := of_packet rfl rfl

theorem rxCinC (cable : Cable) (p1 p2 p3 : Byte) :
    Statement (.rxCinC cable p1 p2 p3) := of_packet rfl rfl

theorem rxCinD (cable : Cable) (p1 p2 p3 : Byte) :
    Statement (.rxCinD cable p1 p2 p3) := of_packet rfl rfl

theorem rxCinE (cable : Cable) (p1 p2 p3 : Byte) :
    Statement (.rxCinE cable p1 p2 p3) := of_packet rfl rfl

theorem rxCinF (cable : Cable) (p1 p2 p3 : Byte) :
    Statement (.rxCinF cable p1 p2 p3) := of_packet rfl rfl

theorem encShortPc (cable : Cable) (status : Byte) (data : List Byte) :
    Statement (.encShortPc cable status data) := by
  intro h
  exact of_status rfl rfl (eq_of_beq h) h

theorem encShortSpp (cable : Cable) (status : Byte) (data : List Byte) :
    Statement (.encShortSpp cable status data) := by
  intro h
  exact of_status rfl rfl (eq_of_beq h) h

theorem encShortSc1 (cable : Cable) (status : Byte) (data : List Byte) :
    Statement (.encShortSc1 cable status data) := by
  intro h
  exact of_status rfl rfl (eq_of_beq h) h

theorem encShortDefault (cable : Cable) (status : Byte) (data : List Byte) :
    Statement (.encShortDefault cable status data) := by
  intro h
  exact of_status rfl rfl (eq_of_beq h) h

theorem encSysexCont (cable : Cable) (g0 g1 g2 : Byte) :
    Statement (.encSysexCont cable g0 g1 g2) := fun _ => rfl

theorem encSysexEnd1 (cable : Cable) (g0 : Byte) :
    Statement (.encSysexEnd1 cable g0) := fun _ => rfl

theorem encSysexEnd2 (cable : Cable) (g0 g1 : Byte) :
    Statement (.encSysexEnd2 cable g0 g1) := fun _ => rfl

theorem encSysexEnd3 (cable : Cable) (g0 g1 g2 : Byte) :
    Statement (.encSysexEnd3 cable g0 g1 g2) := fun _ => rfl

theorem encShort (cable : Cable) (m : List Byte) (len : Nat) :
    Statement (.encShort cable m len) := fun h =>
  of_call (of_decide_eq_true h) rfl rfl

theorem encSysex (cable : Cable) (bytes : List Byte) (len : Nat) :
    Statement (.encSysex cable bytes len) := fun h =>
  of_call (of_decide_eq_true h) rfl rfl

theorem write (cable : Cable) (m : List Byte) :
    Statement (.write cable m) := fun _ => rfl

theorem sysexWrite (cable : Cable) (bytes : List Byte) :
    Statement (.sysexWrite cable bytes) := fun _ => rfl

theorem sendRaw (cable : Cable) (framed : List Byte) :
    Statement (.sendRaw cable framed) := fun _ => rfl

theorem submit (f : List Byte) :
    Statement (.submit f) := fun h =>
  of_call (of_decide_eq_true h) rfl rfl

theorem handover :
    Statement .handover := fun _ => rfl

theorem txComplete (status : XferStatus) :
    Statement (.txComplete status) := fun _ => rfl

theorem rxComplete (status : XferStatus) (data : List Byte) :
    Statement (.rxComplete status data) := fun _ => rfl

theorem decodeChunk (f : RxIdx) (len : Nat) :
    Statement (.decodeChunk f len) := fun h =>
  of_call (of_decide_eq_true h) rfl rfl

theorem sxAppend (c : Cable) (b1 b2 b3 : Byte) :
    Statement (.sxAppend c b1 b2 b3) := fun _ => rfl

theorem sxBufreq (c : Cable) (need : Nat) :
    Statement (.sxBufreq c need) := fun _ => rfl

theorem sxTerm (c : Cable) (n : Nat) (bs : List Byte) :
    Statement (.sxTerm c n bs) := fun h =>
  of_call (of_decide_eq_true h) rfl rfl

theorem sxReset :
    Statement .sxReset := fun _ => rfl

theorem portOpen :
    Statement .portOpen := fun _ => rfl

theorem portClose :
    Statement .portClose := fun _ => rfl

theorem reset :
    Statement .reset := fun _ => rfl

end Sys2Proof.Laws.EncodeDecode
end

