-- ==== Sys2Proof/Tests/Slice0.lean ====
section
/-! SUPPORT. Tests with results from the spec (95_test_vectors.md and hand application of the rules
cited), the smoke test of WellFormed, and a witness of the hypotheses of every statement. -/

namespace Sys2Proof.Tests

open Sys2Proof.Machine

/-! ### States -/

/-- The "idle open state" of 95_test_vectors.md, with two answers of the consumer. -/
def idleOpen : State :=
  { State.reset with isOpen := true, rxArmed := some .buf0, answers := [⟨100, 64⟩, ⟨200, 6⟩] }

/-- The same while a transfer is out and one packet is queued. -/
def sendingOne : State :=
  { idleOpen with sending := true, txq := [0x09#8, 0x90#8, 0x40#8, 0x7F#8],
                  txInflight := some [0x09#8, 0x90#8, 0x3C#8, 0x7F#8] }

/-- Cable 10 in the middle of a SysEx message: `sx[10] = (100, 3, cap_left)`. -/
def midSysex (capLeft : Nat) : State := idleOpen.setSession 0xA#4 ⟨some 100, 3, capLeft⟩

/-- With `TERM_POLICY = request`. -/
def requesting (s : State) : State := { s with cfg := { s.cfg with termPolicy := .request } }

/-- With a latched fault. -/
def faulted : State := { idleOpen with fault := some .sysExOverrun }

/-- With the commands given still to run. -/
def waiting (s : State) (cs : List Command) : State := { s with inbox := cs }

/-- The state a step answered. -/
def Res.state? : Res → Option State
  | .next t => some t
  | .fault _ => none
  | .refused _ => none

/-- A view of the state an instruction answers. -/
def after {α : Type} (i : Instr) (s : State) (view : State → α) : Option α :=
  (Res.state? (exec i s)).map view

/-- The outcome and the events an instruction adds to an empty trace. -/
def seen (i : Instr) (s : State) : Option (OpOutcome × List Event) :=
  after i s fun t => (t.outcome, t.trace)

/-! ### WellFormed: an ill-formed term for each check, which the check refuses, beside a good one -/

theorem test_wf_term_not_tune_request :
    (Instr.rxCin5Term 0x0#4 0xF6#8 0#8 0#8).wellFormed = false ∧
    (Instr.rxCin5Term 0x0#4 0xF7#8 0#8 0#8).wellFormed = true := by decide
theorem test_wf_pc_class : (Instr.encShortPc 0x0#4 0xE0#8 []).wellFormed = false ∧
    (Instr.encShortPc 0x0#4 0xDF#8 []).wellFormed = true := by decide
theorem test_wf_spp_class : (Instr.encShortSpp 0x0#4 0xF3#8 []).wellFormed = false ∧
    (Instr.encShortSpp 0x0#4 0xF2#8 [1#8, 2#8]).wellFormed = true := by decide
theorem test_wf_sc1_class : (Instr.encShortSc1 0x0#4 0xF8#8 []).wellFormed = false ∧
    (Instr.encShortSc1 0x0#4 0xF7#8 []).wellFormed = true := by decide
theorem test_wf_default_class : (Instr.encShortDefault 0x0#4 0xC0#8 []).wellFormed = false ∧
    (Instr.encShortDefault 0x0#4 0xBF#8 []).wellFormed = true := by decide
theorem test_wf_encShort_len : (Instr.encShort 0x0#4 [0x90#8] 2).wellFormed = false ∧
    (Instr.encShort 0x0#4 [0x90#8, 1#8] 2).wellFormed = true := by decide
theorem test_wf_encSysex_len : (Instr.encSysex 0x0#4 [0xF0#8] 2).wellFormed = false ∧
    (Instr.encSysex 0x0#4 [0xF0#8, 0xF7#8] 2).wellFormed = true := by decide
theorem test_wf_submit_len : (Instr.submit [0x0F#8, 0xF8#8, 0#8]).wellFormed = false ∧
    (Instr.submit [0x0F#8, 0xF8#8, 0#8, 0#8]).wellFormed = true := by decide
theorem test_wf_decodeChunk_len : (Instr.decodeChunk .buf0 6).wellFormed = false ∧
    (Instr.decodeChunk .buf0 8).wellFormed = true := by decide
theorem test_wf_sxTerm_count : (Instr.sxTerm 0x0#4 0 []).wellFormed = false ∧
    (Instr.sxTerm 0x0#4 4 [1#8, 2#8, 3#8, 4#8]).wellFormed = false := by decide
theorem test_wf_sxTerm_bytes : (Instr.sxTerm 0x0#4 2 [1#8]).wellFormed = false ∧
    (Instr.sxTerm 0x0#4 2 [1#8, 2#8]).wellFormed = true := by decide

/-- What WellFormed refuses of an operation's operands has no form as a command. -/
theorem test_ill_formed_operations_have_no_form :
    encode (.submit [0x0F#8]) = none ∧ encode (.decodeChunk .buf0 6) = none ∧
    encode (.sxTerm 0x0#4 2 [1#8]) = none ∧ encode (.encShort 0x0#4 [] 1) = none ∧
    encode (.encSysex 0x0#4 [] 1) = none := by decide
/-- Groups `ENC_SYSEX` never makes (R120), and a word of no format, rejected by name (R80). -/
theorem test_decode_rejects_by_name :
    groupOf false [1#8, 2#8] = none ∧ groupOf true [] = none ∧ groupOf true [1#8, 2#8, 3#8, 4#8] = none ∧
    commandOfTableWord 16 0 = .error (.noSuchFormat 16) := ⟨rfl, rfl, rfl, rfl⟩

/-! ### Decoding words written out from 30_encoding.md: packets of 95_test_vectors.md 2.6, whose first
byte is cable 10 and the CIN -/

theorem test_decode_rxCin0 : decodeTableWord 32 0xA0AABBCC = some (.rxCin0 0xA#4 0xAA#8 0xBB#8 0xCC#8) := by decide
theorem test_decode_rxCin1 : decodeTableWord 32 0xA1AABBCC = some (.rxCin1 0xA#4 0xAA#8 0xBB#8 0xCC#8) := by decide
theorem test_decode_rxCin2 : decodeTableWord 32 0xA2AABBCC = some (.rxCin2 0xA#4 0xAA#8 0xBB#8 0xCC#8) := by decide
theorem test_decode_rxCin3 : decodeTableWord 32 0xA3AABBCC = some (.rxCin3 0xA#4 0xAA#8 0xBB#8 0xCC#8) := by decide
theorem test_decode_rxCin4 : decodeTableWord 32 0xA4AABBCC = some (.rxCin4 0xA#4 0xAA#8 0xBB#8 0xCC#8) := by decide
theorem test_decode_rxCin5F6 : decodeTableWord 32 0xA5F6BBCC = some (.rxCin5F6 0xA#4 0xBB#8 0xCC#8) := by decide
theorem test_decode_rxCin5Term : decodeTableWord 32 0xA5AABBCC = some (.rxCin5Term 0xA#4 0xAA#8 0xBB#8 0xCC#8) := by decide
theorem test_decode_rxCin6 : decodeTableWord 32 0xA6AABBCC = some (.rxCin6 0xA#4 0xAA#8 0xBB#8 0xCC#8) := by decide
theorem test_decode_rxCin7 : decodeTableWord 32 0xA7AABBCC = some (.rxCin7 0xA#4 0xAA#8 0xBB#8 0xCC#8) := by decide
theorem test_decode_rxCin8 : decodeTableWord 32 0xA8AABBCC = some (.rxCin8 0xA#4 0xAA#8 0xBB#8 0xCC#8) := by decide
theorem test_decode_rxCin9 : decodeTableWord 32 0xA9AABBCC = some (.rxCin9 0xA#4 0xAA#8 0xBB#8 0xCC#8) := by decide
theorem test_decode_rxCinA : decodeTableWord 32 0xAAAABBCC = some (.rxCinA 0xA#4 0xAA#8 0xBB#8 0xCC#8) := by decide
theorem test_decode_rxCinB : decodeTableWord 32 0xABAABBCC = some (.rxCinB 0xA#4 0xAA#8 0xBB#8 0xCC#8) := by decide
theorem test_decode_rxCinC : decodeTableWord 32 0xACAABBCC = some (.rxCinC 0xA#4 0xAA#8 0xBB#8 0xCC#8) := by decide
theorem test_decode_rxCinD : decodeTableWord 32 0xADAABBCC = some (.rxCinD 0xA#4 0xAA#8 0xBB#8 0xCC#8) := by decide
theorem test_decode_rxCinE : decodeTableWord 32 0xAEAABBCC = some (.rxCinE 0xA#4 0xAA#8 0xBB#8 0xCC#8) := by decide
theorem test_decode_rxCinF : decodeTableWord 32 0xAFAABBCC = some (.rxCinF 0xA#4 0xAA#8 0xBB#8 0xCC#8) := by decide

/-- The first packet of a byte string (R94): `1F F8 AA BB`, then four more bytes. -/
theorem test_decode_first_packet_of_bytes :
    decodePacketBytes [0x1F#8, 0xF8#8, 0xAA#8, 0xBB#8, 0x08#8, 0x80#8, 0x3C#8, 0x00#8] =
      some (.rxCinF 0x1#4 0xF8#8 0xAA#8 0xBB#8, [0x08#8, 0x80#8, 0x3C#8, 0x00#8]) := by decide

/-! Status bytes at the boundaries of the classes (95_test_vectors.md 2.1, "Boundaries of the masks"). -/

theorem test_decode_encShortPc :
    decodeTableWord 8 0xC0 = some (.encShortPc 0x0#4 0xC0#8 []) ∧
    decodeTableWord 8 0xDF = some (.encShortPc 0x0#4 0xDF#8 []) := by decide
theorem test_decode_encShortSpp : decodeTableWord 8 0xF2 = some (.encShortSpp 0x0#4 0xF2#8 []) := by decide
theorem test_decode_encShortSc1 :
    decodeTableWord 8 0xF4 = some (.encShortSc1 0x0#4 0xF4#8 []) ∧
    decodeTableWord 8 0xF7 = some (.encShortSc1 0x0#4 0xF7#8 []) := by decide
theorem test_decode_encShortDefault :
    decodeTableWord 8 0xBF = some (.encShortDefault 0x0#4 0xBF#8 []) ∧
    decodeTableWord 8 0xE0 = some (.encShortDefault 0x0#4 0xE0#8 []) ∧
    decodeTableWord 8 0xF1 = some (.encShortDefault 0x0#4 0xF1#8 []) ∧
    decodeTableWord 8 0xF3 = some (.encShortDefault 0x0#4 0xF3#8 []) ∧
    decodeTableWord 8 0xF8 = some (.encShortDefault 0x0#4 0xF8#8 []) := by decide

/-! Groups by position and size (30_encoding.md R88), operations by name (R91, R95). -/

theorem test_decode_encSysexCont :
    (groupOf false [0xF0#8, 1#8, 2#8]).map (fun g => decode (.group 0x7#4 g)) = some (.encSysexCont 0x7#4 0xF0#8 1#8 2#8) := by decide
theorem test_decode_encSysexEnd1 :
    (groupOf true [0xF7#8]).map (fun g => decode (.group 0x7#4 g)) = some (.encSysexEnd1 0x7#4 0xF7#8) := by decide
theorem test_decode_encSysexEnd2 :
    (groupOf true [3#8, 0xF7#8]).map (fun g => decode (.group 0x7#4 g)) = some (.encSysexEnd2 0x7#4 3#8 0xF7#8) := by decide
theorem test_decode_encSysexEnd3 :
    (groupOf true [3#8, 4#8, 0xF7#8]).map (fun g => decode (.group 0x7#4 g)) = some (.encSysexEnd3 0x7#4 3#8 4#8 0xF7#8) := by decide

theorem test_decode_packetizer_operations :
    decode (.op (.encShort 0x0#4 [0xF8#8] 1 (by decide))) = .encShort 0x0#4 [0xF8#8] 1 ∧
    decode (.op (.encSysex 0x7#4 [0xF0#8] 1 rfl)) = .encSysex 0x7#4 [0xF0#8] 1 ∧
    decode (.op (.write 0x1#4 [0xC0#8, 5#8])) = .write 0x1#4 [0xC0#8, 5#8] ∧
    decode (.op (.sysexWrite 0x0#4 [])) = .sysexWrite 0x0#4 [] ∧
    decode (.op (.sendRaw 0x9#4 [0x19#8])) = .sendRaw 0x9#4 [0x19#8] := by decide
theorem test_decode_transfer_operations :
    decode (.op (.submit [] rfl)) = .submit [] ∧ decode (.op .handover) = .handover ∧
    decode (.op (.txComplete .waiting)) = .txComplete .waiting ∧
    decode (.op (.rxComplete .success [1#8])) = .rxComplete .success [1#8] ∧
    decode (.op (.decodeChunk .buf1 8 rfl)) = .decodeChunk .buf1 8 := by decide
theorem test_decode_sysex_operations :
    decode (.op (.sxAppend 0x2#4 1#8 2#8 3#8)) = .sxAppend 0x2#4 1#8 2#8 3#8 ∧
    decode (.op (.sxBufreq 0x2#4 3)) = .sxBufreq 0x2#4 3 ∧
    decode (.op (.sxTerm 0x2#4 1 [0xF7#8] (by decide))) = .sxTerm 0x2#4 1 [0xF7#8] ∧
    decode (.op .sxReset) = .sxReset := by decide
theorem test_decode_port_operations :
    decode (.op .portOpen) = .portOpen ∧ decode (.op .portClose) = .portClose ∧
    decode (.op .reset) = .reset := by decide

/-! ### The packetizer (95_test_vectors.md S1, S9, 2.1 to 2.3) -/

theorem test_encShortPc : after (.encShortPc 0xA#4 0xD5#8 [0x40#8, 0x22#8]) idleOpen (·.result) =
    some [0xA2#8, 0xD5#8, 0x40#8, 0x00#8] := by decide
theorem test_encShortSpp : after (.encShortSpp 0x0#4 0xF2#8 [0x11#8, 0x22#8]) idleOpen (·.result) =
      some [0x03#8, 0xF2#8, 0x11#8, 0x00#8] ∧
    after (.encShortSpp 0x0#4 0xF2#8 [0x11#8, 0x22#8])
      { idleOpen with cfg := { Params.default with sppLen := .three } } (·.result) =
      some [0x03#8, 0xF2#8, 0x11#8, 0x22#8] := by decide
theorem test_encShortSc1 : after (.encShortSc1 0x0#4 0xF6#8 [0x11#8, 0x22#8]) idleOpen (·.result) =
    some [0x05#8, 0xF6#8, 0x00#8, 0x00#8] := by decide
theorem test_encShortDefault : after (.encShortDefault 0xF#4 0x9F#8 [0x7F#8, 0x7F#8]) idleOpen (·.result) =
      some [0xF9#8, 0x9F#8, 0x7F#8, 0x7F#8] ∧
    after (.encShortDefault 0x0#4 0xF1#8 []) idleOpen (·.result) =
      some [0x0F#8, 0xF1#8, 0x00#8, 0x00#8] := by decide
/-- R119: more than 3 bytes with the status byte. -/
theorem test_status_rows_four_bytes :
    seen (.encShortPc 0x0#4 0xC0#8 [1#8, 2#8, 3#8]) idleOpen = some (.err .invalidMessageLength, []) ∧
    seen (.encShortSpp 0x0#4 0xF2#8 [1#8, 2#8, 3#8]) idleOpen = some (.err .invalidMessageLength, []) ∧
    seen (.encShortSc1 0x0#4 0xF6#8 [1#8, 2#8, 3#8]) idleOpen = some (.err .invalidMessageLength, []) ∧
    seen (.encShortDefault 0x0#4 0x90#8 [1#8, 2#8, 3#8]) idleOpen =
      some (.err .invalidMessageLength, []) := by decide
theorem test_encSysexCont : after (.encSysexCont 0x7#4 0xF0#8 1#8 2#8) idleOpen (·.result) =
    some [0x74#8, 0xF0#8, 0x01#8, 0x02#8] := by decide
theorem test_encSysexEnd1 : after (.encSysexEnd1 0x7#4 0xF0#8) idleOpen (·.result) =
    some [0x75#8, 0xF0#8, 0x00#8, 0x00#8] := by decide
theorem test_encSysexEnd2 : after (.encSysexEnd2 0x7#4 0xF0#8 0xF7#8) idleOpen (·.result) =
    some [0x76#8, 0xF0#8, 0xF7#8, 0x00#8] := by decide
theorem test_encSysexEnd3 : after (.encSysexEnd3 0x7#4 0xF0#8 1#8 0xF7#8) idleOpen (·.result) =
    some [0x77#8, 0xF0#8, 0x01#8, 0xF7#8] := by decide
theorem test_encShort : after (.encShort 0x0#4 [0xC0#8, 0x11#8, 0x22#8] 1) idleOpen (·.result) =
    some [0x02#8, 0xC0#8, 0x00#8, 0x00#8] := by decide
theorem test_encShort_four_bytes :
    after (.encShort 0x0#4 [0x90#8, 1#8, 2#8, 3#8] 4) idleOpen (·.outcome) =
    some (.err .invalidMessageLength) := by decide
theorem test_encSysex : after (.encSysex 0x7#4 [0xF0#8, 1#8, 2#8, 3#8, 0xF7#8] 5) idleOpen (·.result) =
    some [0x74#8, 0xF0#8, 0x01#8, 0x02#8, 0x76#8, 0x03#8, 0xF7#8, 0x00#8] := by decide
theorem test_encSysex_four_bytes :
    after (.encSysex 0x0#4 [0#8, 0#8, 0#8, 0#8] 4) idleOpen (·.result) =
    some [0x04#8, 0x00#8, 0x00#8, 0x00#8, 0x05#8, 0x00#8, 0x00#8, 0x00#8] := by decide
theorem test_write : seen (.write 0x0#4 [0x90#8, 0x3C#8, 0x7F#8]) idleOpen =
    some (.ok, [.submitOut [0x09#8, 0x90#8, 0x3C#8, 0x7F#8]]) := by decide
theorem test_write_closed_before_length :
    seen (.write 0x0#4 [0x90#8, 1#8, 2#8, 3#8]) State.reset = some (.err .notOpen, []) := by decide
theorem test_sysexWrite_queued_whole :
    after (.sysexWrite 0x0#4 [0xF0#8, 0#8, 1#8, 2#8]) { sendingOne with txq := [] } (·.txq) =
    some [0x04#8, 0xF0#8, 0x00#8, 0x01#8, 0x05#8, 0x02#8, 0x00#8, 0x00#8] := by decide
theorem test_sysexWrite_full_queues_nothing :
    after (.sysexWrite 0x0#4 [0xF0#8, 0#8, 1#8, 2#8, 3#8, 4#8, 5#8, 6#8, 7#8, 8#8, 0xF7#8])
      { sendingOne with txq := [], cfg := { Params.default with qCap := 12 } }
      (fun t => (t.outcome, t.txq)) = some (.err .queueFull, []) := by decide
theorem test_sendRaw_ignores_cable :
    seen (.sendRaw 0x9#4 [0x19#8, 0x90#8, 0x3C#8, 0x7F#8]) idleOpen =
    some (.ok, [.submitOut [0x19#8, 0x90#8, 0x3C#8, 0x7F#8]]) := by decide
theorem test_sendRaw_three_bytes :
    seen (.sendRaw 0x0#4 [0x19#8, 0x90#8, 0x3C#8]) idleOpen = some (.err .invalidRawLength, []) := by decide

/-! ### The flow controller (95_test_vectors.md S3, S4, 2.4) -/

theorem test_submit_queues_while_sending :
    after (.submit [0x08#8, 0x80#8, 0x3C#8, 0x00#8]) sendingOne (fun t => (t.txq, t.trace)) =
    some ([0x09#8, 0x90#8, 0x40#8, 0x7F#8, 0x08#8, 0x80#8, 0x3C#8, 0x00#8], []) := by decide
theorem test_submit_empty : after (.submit []) idleOpen (fun t => (t.outcome, t.sending)) =
    some (.ok, false) := by decide
theorem test_handover :
    after .handover { sendingOne with cfg := { Params.default with maxXfer := 4 },
                                      txq := [1#8, 2#8, 3#8, 4#8, 5#8, 6#8, 7#8, 8#8] }
      (fun t => (t.txq, t.trace)) =
    some ([5#8, 6#8, 7#8, 8#8], [.submitOut [1#8, 2#8, 3#8, 4#8]]) := by decide
/-- 41_txflow.md R141: called only when the queue holds bytes. -/
theorem test_handover_empty_stops : exec .handover idleOpen = .fault .handoverEmptyQueue := by rfl
theorem test_txComplete_drains :
    after (.txComplete .success) sendingOne (fun t => (t.sending, t.txq, t.trace)) =
      some (true, [], [.submitOut [0x09#8, 0x90#8, 0x40#8, 0x7F#8], .txDone]) ∧
    after (.txComplete .aborted) sendingOne (fun t => (t.sending, t.txq, t.trace)) =
      some (true, [0x09#8, 0x90#8, 0x40#8, 0x7F#8], []) := by decide
/-- S4: with nothing being sent, `Success` is a no-op any number of times. 92_eei_decisions.md D15: a second
notification for one request is no move, `Success` after `Waiting` too (41_txflow.md R143). -/
theorem test_txComplete_not_owed :
    after (.txComplete .success) idleOpen (fun t => (t.outcome, t.sending, t.trace)) =
      some (.ok, false, []) ∧
    exec (.txComplete .success) { sendingOne with txInflight := none } = .refused .noMove ∧
    (∃ t, exec (.txComplete .waiting) sendingOne = .next t ∧
      exec (.txComplete .success) t = .refused .noMove) := ⟨by decide, rfl, ⟨_, rfl, rfl⟩⟩

/-! ### The hand-off and the decoder (95_test_vectors.md 2.5, 2.6) -/

theorem test_rxComplete :
    after (.rxComplete .success [0x08#8, 0x80#8, 0x3C#8, 0x00#8, 0x1F#8, 0xF8#8, 0xAA#8, 0xBB#8])
      { idleOpen with rxActive := .buf1, rxArmed := some .buf1 }
      (fun t => (t.rxActive, t.trace, t.rxbuf1.take 9)) =
    some (.buf0, [.armIn .buf0 64, .msg 0x0#4 [0x80#8, 0x3C#8, 0x00#8], .msg 0x1#4 [0xF8#8]],
      [0x08#8, 0x80#8, 0x3C#8, 0x00#8, 0x1F#8, 0xF8#8, 0xAA#8, 0xBB#8, 0x00#8]) ∧
    after (.rxComplete .success [1#8, 2#8, 3#8, 4#8, 5#8, 6#8]) idleOpen
      (fun t => (t.outcome, t.trace, t.rxActive, t.rxArmed)) =
    some (.fault .badChunkLength, [], .buf0, none) := by decide
/-- 42_rxhandoff.md R162, R166: with nothing armed the transport has no such move, `Success` after `Waiting`
too. -/
theorem test_rxComplete_not_owed :
    exec (.rxComplete .success []) { idleOpen with rxArmed := none } = .refused .noMove ∧
    (∃ t, exec (.rxComplete .waiting []) idleOpen = .next t ∧
      exec (.rxComplete .success []) t = .refused .noMove) := ⟨rfl, ⟨_, rfl, rfl⟩⟩
theorem test_decodeChunk :
    seen (.decodeChunk .buf0 8) { idleOpen with
      rxbuf0 := [0x2C#8, 0xC1#8, 0x05#8, 0xFF#8, 0x05#8, 0xF6#8, 0x00#8, 0x00#8] } =
    some (.ok, [.msg 0x2#4 [0xC1#8, 0x05#8], .msg 0x0#4 [0xF6#8]]) := by decide
/-- 20_memory.md R50: there is no byte 64 in a buffer of 64. -/
theorem test_decodeChunk_beyond_stops : exec (.decodeChunk .buf0 68) idleOpen = .fault .rxBufferRange := by rfl
theorem test_rxCin0 : seen (.rxCin0 0xA#4 0xAA#8 0xBB#8 0xCC#8) idleOpen =
    some (.ok, [.msg 0xA#4 [0xAA#8, 0xBB#8, 0xCC#8]]) := by decide
theorem test_rxCin1 : seen (.rxCin1 0xA#4 0xAA#8 0xBB#8 0xCC#8) idleOpen =
    some (.ok, [.msg 0xA#4 [0xAA#8, 0xBB#8, 0xCC#8]]) := by decide
theorem test_rxCin2 : seen (.rxCin2 0xA#4 0xAA#8 0xBB#8 0xCC#8) idleOpen =
    some (.ok, [.msg 0xA#4 [0xAA#8, 0xBB#8]]) := by decide
theorem test_rxCin3 : seen (.rxCin3 0xA#4 0xAA#8 0xBB#8 0xCC#8) idleOpen =
    some (.ok, [.msg 0xA#4 [0xAA#8, 0xBB#8, 0xCC#8]]) := by decide
theorem test_rxCin4 : seen (.rxCin4 0xA#4 0xAA#8 0xBB#8 0xCC#8) idleOpen =
    some (.ok, [.bufReq 0xA#4 none ⟨100, 64⟩]) := by decide
theorem test_rxCin4_session :
    after (.rxCin4 0xA#4 0xAA#8 0xBB#8 0xCC#8) idleOpen (fun t => (t.session 0xA#4, t.sxmem)) =
    some (⟨some 100, 3, 61⟩, [(100, 0xAA#8), (101, 0xBB#8), (102, 0xCC#8)]) := by decide
theorem test_rxCin5F6 : seen (.rxCin5F6 0xA#4 0xBB#8 0xCC#8) idleOpen =
    some (.ok, [.msg 0xA#4 [0xF6#8]]) := by decide
theorem test_rxCin5Term : seen (.rxCin5Term 0xA#4 0xAA#8 0xBB#8 0xCC#8) (midSysex 61) =
    some (.ok, [.sysExMsg 0xA#4 100 4]) := by decide
theorem test_rxCin5Term_no_session : seen (.rxCin5Term 0xA#4 0xAA#8 0xBB#8 0xCC#8) idleOpen =
    some (.fault .sysExTermNoSession, []) := by decide
theorem test_rxCin6 :
    after (.rxCin6 0xA#4 0xAA#8 0xBB#8 0xCC#8) (midSysex 61) (fun t => (t.trace, t.sxmem)) =
    some ([.sysExMsg 0xA#4 100 5], [(103, 0xAA#8), (104, 0xBB#8)]) := by decide
theorem test_rxCin7 :
    after (.rxCin7 0xA#4 0xAA#8 0xBB#8 0xCC#8) (midSysex 61) (fun t => (t.trace, t.sxmem)) =
    some ([.sysExMsg 0xA#4 100 6], [(103, 0xAA#8), (104, 0xBB#8), (105, 0xCC#8)]) := by decide
theorem test_rxCin7_overrun : seen (.rxCin7 0xA#4 0xAA#8 0xBB#8 0xCC#8) (midSysex 2) =
    some (.fault .sysExOverrun, []) := by decide
theorem test_rxCin8 : seen (.rxCin8 0xA#4 0xAA#8 0xBB#8 0xCC#8) idleOpen =
    some (.ok, [.msg 0xA#4 [0xAA#8, 0xBB#8, 0xCC#8]]) := by decide
theorem test_rxCin9 : seen (.rxCin9 0xA#4 0xAA#8 0xBB#8 0xCC#8) idleOpen =
    some (.ok, [.msg 0xA#4 [0xAA#8, 0xBB#8, 0xCC#8]]) := by decide
theorem test_rxCinA : seen (.rxCinA 0xA#4 0xAA#8 0xBB#8 0xCC#8) idleOpen =
    some (.ok, [.msg 0xA#4 [0xAA#8, 0xBB#8, 0xCC#8]]) := by decide
theorem test_rxCinB : seen (.rxCinB 0xA#4 0xAA#8 0xBB#8 0xCC#8) idleOpen =
    some (.ok, [.msg 0xA#4 [0xAA#8, 0xBB#8, 0xCC#8]]) := by decide
theorem test_rxCinC : seen (.rxCinC 0xA#4 0xAA#8 0xBB#8 0xCC#8) idleOpen =
    some (.ok, [.msg 0xA#4 [0xAA#8, 0xBB#8]]) := by decide
theorem test_rxCinD : seen (.rxCinD 0xA#4 0xAA#8 0xBB#8 0xCC#8) idleOpen =
    some (.ok, [.msg 0xA#4 [0xAA#8, 0xBB#8]]) := by decide
theorem test_rxCinE : seen (.rxCinE 0xA#4 0xAA#8 0xBB#8 0xCC#8) idleOpen =
    some (.ok, [.msg 0xA#4 [0xAA#8, 0xBB#8, 0xCC#8]]) := by decide
theorem test_rxCinF : seen (.rxCinF 0xA#4 0xAA#8 0xBB#8 0xCC#8) idleOpen =
    some (.ok, [.msg 0xA#4 [0xAA#8]]) := by decide

/-! ### The reassembler (95_test_vectors.md 2.7, P2) and the port (2.8) -/

/-- P2, packet 5: no room is left, the 6 bytes in the buffer are handed off; packet 3: exactly 3 bytes of
room are enough. -/
theorem test_sxAppend_recycles :
    after (.sxAppend 0x0#4 6#8 7#8 8#8)
      { idleOpen.setSession 0x0#4 ⟨some 300, 6, 0⟩ with answers := [⟨200, 6⟩] }
      (fun t => (t.session 0x0#4, t.trace, t.sxmem)) =
    some (⟨some 200, 3, 3⟩, [.bufReq 0x0#4 (some (300, 6)) ⟨200, 6⟩],
      [(200, 6#8), (201, 7#8), (202, 8#8)]) ∧
    after (.sxAppend 0xA#4 3#8 4#8 5#8) (midSysex 3) (fun t => (t.session 0xA#4, t.trace)) =
    some (⟨some 100, 6, 0⟩, []) := by decide
/-- Cable 11 holds 104 to 109, cable 10 stores at 103, 104 and 105: the two bytes in the overlap are any
value (93_implementation_defined.md U19), and the sessions are as if there were none (20_memory.md R65). -/
theorem test_sxAppend_overlap :
    let s := (midSysex 61).setSession 0xB#4 ⟨some 104, 1, 5⟩
    after (.sxAppend 0xA#4 1#8 2#8 3#8) s (·.sxmem) =
      some [(103, 1#8), (104, Config.freeSxByte 0 104 2#8), (105, Config.freeSxByte 0 105 3#8)] ∧
    after (.sxAppend 0xA#4 1#8 2#8 3#8) s (fun t => (t.session 0xA#4, t.session 0xB#4)) =
      some (⟨some 100, 6, 58⟩, ⟨some 104, 1, 5⟩) := ⟨rfl, by decide⟩
/-- P5: the answer has capacity 0; the session is left empty and the block faults. -/
theorem test_sxBufreq_no_buffer :
    after (.sxBufreq 0xA#4 3) { midSysex 0 with answers := [⟨7, 0⟩] }
      (fun t => (t.outcome, t.fault, t.trace, t.session 0xA#4)) =
    some (.fault .sysExNoBuffer, some .sysExNoBuffer, [.bufReq 0xA#4 (some (100, 3)) ⟨7, 0⟩],
      Session.empty) := by decide
theorem test_sxBufreq_exact : after (.sxBufreq 0x1#4 64) idleOpen (·.session 0x1#4) =
    some ⟨some 100, 0, 64⟩ := by decide
/-- `27 F0 7E F7` with `TERM_POLICY = request`. -/
theorem test_sxTerm_request :
    after (.sxTerm 0x2#4 3 [0xF0#8, 0x7E#8, 0xF7#8]) (requesting idleOpen)
      (fun t => (t.trace, t.sxmem, t.session 0x2#4)) =
    some ([.bufReq 0x2#4 none ⟨100, 64⟩, .sysExMsg 0x2#4 100 3],
      [(100, 0xF0#8), (101, 0x7E#8), (102, 0xF7#8)], Session.empty) := by decide
theorem test_sxTerm_request_too_small :
    seen (.sxTerm 0x0#4 3 [0xF0#8, 0x7E#8, 0xF7#8]) { requesting idleOpen with answers := [⟨9, 2⟩] } =
    some (.fault .sysExNoBuffer, [.bufReq 0x0#4 none ⟨9, 2⟩]) := by decide
theorem test_sxReset : after .sxReset (midSysex 5) (fun t => (t.session 0xA#4, t.trace)) =
    some (Session.empty, []) := by decide
theorem test_portOpen : seen .portOpen State.reset = some (.ok, [.armIn .buf0 64, .portOpened]) := by decide
theorem test_portClose :
    after .portClose { sendingOne with rxActive := .buf1 }
      (fun t => (t.isOpen, t.sending, t.txq, t.rxActive, t.trace)) =
    some (false, false, [], .buf1, [.portClosed]) := by decide
theorem test_refused_while_faulted :
    seen (.write 0x0#4 [0xF8#8]) faulted = some (.fault .sysExOverrun, []) := by decide
theorem test_reset : after .reset { sendingOne with fault := some .sysExOverrun }
    (fun t => (t.isOpen, t.txq, t.fault)) = some (false, [], none) := by decide

/-! ### Witnesses: for every statement with hypotheses, a state and operands that meet them, one
conjunct (or theorem) for each clause -/

theorem witness_StepRunsDecodedCommand :
    (waiting idleOpen [.packet ⟨0x09#8, 0x90#8, 0x3C#8, 0x7F#8⟩]).inbox =
      .packet ⟨0x09#8, 0x90#8, 0x3C#8, 0x7F#8⟩ :: [] ∧
    idleOpen.inbox = [] := ⟨rfl, rfl⟩
theorem witness_EncodeThenDecodeIsIdentity :
    (Instr.rxCin5Term 0xF#4 0xF7#8 0#8 0#8).wellFormed = true := by decide
theorem witness_DecoderFollowsMaskMatchTable :
    ⟨.cin5Term, 0x0F000000#32, 0x05000000#32⟩ ∈ packetTable ∧
    (Packet.displayWord ⟨0xA5#8, 0xF6#8, 0#8, 0#8⟩) &&& 0x0F000000#32 = 0x05000000#32 := by decide
theorem witness_EncShortReturnsOnePacket :
    idleOpen.fault = none ∧ 0 ≤ ([] : List Byte).length ∧
    4 ≤ [0x90#8, 1#8, 2#8, 3#8].length ∧ 3 < 4 ∧
    1 ≤ [0xF2#8].length ∧ 3 ≤ [0xF2#8, 1#8, 2#8].length := by decide
theorem witness_StatusRowsReturnTheirPacket :
    idleOpen.fault = none ∧ [1#8, 2#8].length ≤ 2 ∧ 2 < [1#8, 2#8, 3#8].length := by decide
theorem witness_GroupRowsReturnTheirPacket : idleOpen.fault = none := by decide
theorem witness_EncSysexFramesGroupsOfThree : idleOpen.fault = none := by decide
theorem witness_ResetFromAnyState :
    Instr.rxComplete .success [] ≠ .reset ∧ faulted.fault = some .sysExOverrun := by decide
/-- The smallest queue R9 admits, full. -/
def fullQueue : State := { sendingOne with cfg := { Params.default with qCap := 4 } }
theorem witness_WriteSubmitsItsPacket :
    faulted.fault = some .sysExOverrun ∧ State.reset.fault = none ∧ State.reset.isOpen = false ∧
    idleOpen.fault = none ∧ idleOpen.isOpen = true ∧
    ([] : List Byte).length = 0 ∧ 3 < [0x90#8, 1#8, 2#8, 3#8].length ∧ [0x3C#8, 0x7F#8].length ≤ 2 ∧
    fullQueue.fault = none ∧ fullQueue.isOpen = true ∧ fullQueue.cfg.qCap < fullQueue.txq.length + 4 ∧
    idleOpen.txq.length + 4 ≤ idleOpen.cfg.qCap ∧ sendingOne.txq.length + 4 ≤ sendingOne.cfg.qCap := by decide
theorem witness_SysexWriteSubmitsAllPackets :
    faulted.fault = some .sysExOverrun ∧ State.reset.fault = none ∧ State.reset.isOpen = false ∧
    idleOpen.fault = none ∧ idleOpen.isOpen = true ∧ [0xF0#8, 0xF7#8] ≠ [] ∧
    fullQueue.fault = none ∧ fullQueue.isOpen = true ∧
    fullQueue.cfg.qCap < fullQueue.txq.length + 4 * (([0xF0#8, 0xF7#8].length + 2) / 3) ∧
    idleOpen.txq.length + 4 * (([0xF0#8, 0xF7#8].length + 2) / 3) ≤ idleOpen.cfg.qCap := by decide
theorem witness_SendRawSubmitsBytesAsGiven :
    faulted.fault = some .sysExOverrun ∧ State.reset.fault = none ∧ State.reset.isOpen = false ∧
    idleOpen.fault = none ∧ idleOpen.isOpen = true ∧ [1#8].length % 4 ≠ 0 ∧
    [1#8, 2#8, 3#8, 4#8] ≠ [] ∧ [1#8, 2#8, 3#8, 4#8].length % 4 = 0 ∧
    fullQueue.fault = none ∧ fullQueue.isOpen = true ∧
    fullQueue.cfg.qCap < fullQueue.txq.length + [1#8, 2#8, 3#8, 4#8].length ∧
    idleOpen.txq.length + [1#8, 2#8, 3#8, 4#8].length ≤ idleOpen.cfg.qCap := by decide
theorem witness_SubmitAppendsOrHandsOver :
    sendingOne.fault = none ∧ [1#8, 2#8, 3#8, 4#8] ≠ [] ∧
    sendingOne.txq.length + [1#8, 2#8, 3#8, 4#8].length ≤ sendingOne.cfg.qCap ∧
    fullQueue.fault = none ∧
    fullQueue.cfg.qCap < fullQueue.txq.length + [1#8, 2#8, 3#8, 4#8].length := by decide
theorem witness_HandoverTakesOldestBytes : sendingOne.fault = none ∧ sendingOne.txq ≠ [] := by decide
theorem witness_TxCompleteSuccessDrains :
    faulted.fault = some .sysExOverrun ∧ State.reset.fault = none ∧ State.reset.isOpen = false ∧
    idleOpen.fault = none ∧ idleOpen.isOpen = true ∧ idleOpen.sending = false ∧ idleOpen.txq = [] ∧
    sendingOne.fault = none ∧ sendingOne.isOpen = true ∧ sendingOne.txInflight.isSome = true ∧
    sendingOne.txq ≠ [] := by decide
theorem witness_FailedTransfersChangeNothing :
    sendingOne.fault = none ∧ sendingOne.isOpen = true ∧ sendingOne.txInflight.isSome = true ∧
    sendingOne.rxArmed.isSome = true := by decide
theorem witness_ClosedPortRefusesOrIgnores :
    State.reset.fault = none ∧ State.reset.isOpen = false := by decide
theorem witness_QueueOrderIsFifo :
    ∃ t, exec (.write 0x0#4 [0xF8#8]) sendingOne = .next t ∧
      Instr.write 0x0#4 [0xF8#8] ≠ .portClose ∧ Instr.write 0x0#4 [0xF8#8] ≠ .reset ∧ t.outcome = .ok :=
  ⟨_, rfl, by decide, by decide, by decide⟩

/-- In the middle of its work: a transfer out, a packet queued, a SysEx message begun. -/
def midWork : State :=
  { sendingOne.setSession 0xA#4 ⟨some 100, 3, 61⟩ with trace := [.bufReq 0xA#4 none ⟨100, 64⟩] }

theorem witness_runInv : RunInv midWork :=
  { base :=
    { params := by decide, queue_fits := by decide, queue_packets := by decide, queue_idle := by decide,
      submits := by
        intro e he
        have h : e = .bufReq 0xA#4 none ⟨100, 64⟩ := by simpa [midWork] using he
        subst h; trivial
      sessions := by decide
      lent := by
        intro c a h
        by_cases hc : c = 0xA#4
        · subst hc
          have ha : some 100 = some a := h
          exact ⟨none, by rw [← Option.some.inj ha]; exact List.mem_singleton.mpr rfl⟩
        · have hn : ∀ c, c ≠ 0xA#4 → (midWork.session c).buf = none := by decide
          simp [hn c hc] at h
      rxbuf_size := by intro f; cases f <;> rfl
      memory := List.Pairwise.nil
      armed := by
        intro f hf
        have h : some RxIdx.buf0 = some f := hf
        exact (Option.some.inj h).symm }
    closed := by decide, in_flight := by decide, started := by decide
    agents := by intro c h; simp [midWork, sendingOne, idleOpen, State.reset, State.setSession] at h }

/-- The same with one agent's command waiting. -/
theorem witness_runInv_waiting (cmd : Command) (hc : agentCommand cmd = true) :
    RunInv (waiting midWork [cmd]) :=
  { witness_runInv with
    base := { witness_runInv.base with }
    agents := by
      intro c h
      have : c = cmd := by simpa [waiting] using h
      exact this ▸ hc }

theorem witness_OneTransferInFlight :
    let cmd := Command.op (.write 0x0#4 [0xF8#8])
    let s := waiting midWork [cmd]
    RunInv s ∧ s.inbox = cmd :: [] ∧ (∃ t, step s = .next t) ∧ s.txInflight.isSome ∧
      (∀ st, decode cmd ≠ .txComplete st) :=
  ⟨witness_runInv_waiting _ (by decide), rfl, ⟨_, rfl⟩, by decide, by intro st; simp [decode, Call.toInstr]⟩
theorem witness_RxCompleteSwapsArmsDecodes :
    idleOpen.fault = none ∧ idleOpen.isOpen = true ∧ idleOpen.rxArmed.isSome = true ∧
    [1#8, 2#8, 3#8, 4#8].length % 4 = 0 ∧
    [1#8, 2#8, 3#8, 4#8].length ≤ idleOpen.cfg.rxBufSize := by decide
theorem witness_BadChunkLengthFaults :
    idleOpen.fault = none ∧ idleOpen.isOpen = true ∧ idleOpen.rxArmed.isSome = true ∧
    [1#8].length % 4 ≠ 0 ∧
    idleOpen.cfg.rxBufSize < (List.replicate 68 0#8).length := by decide
theorem witness_RxBuffersAlternate :
    idleOpen.fault = none ∧ idleOpen.isOpen = true ∧ [0x0F#8, 0xF8#8, 0#8, 0#8].length % 4 = 0 ∧
    [0x0F#8, 0xF8#8, 0#8, 0#8].length ≤ idleOpen.cfg.rxBufSize ∧
    ∃ t, exec (.rxComplete .success [0x0F#8, 0xF8#8, 0#8, 0#8]) idleOpen = .next t :=
  ⟨rfl, rfl, by decide, by decide, ⟨_, rfl⟩⟩
theorem witness_ArmInOnlyFromOpenAndRxComplete :
    ∃ t, exec .portOpen State.reset = .next t ∧
      t.trace = State.reset.trace ++ [.armIn .buf0 64, .portOpened] ∧
      Event.armIn .buf0 64 ∈ [Event.armIn .buf0 64, .portOpened] :=
  ⟨_, rfl, by decide, by decide⟩
theorem witness_DecodeChunkRunsPacketsInOrder :
    idleOpen.fault = none ∧ 64 % 4 = 0 ∧ 64 ≤ idleOpen.cfg.rxBufSize := by decide
theorem witness_ShortMessageChunkDelivers :
    idleOpen.fault = none ∧ 4 * 16 ≤ idleOpen.cfg.rxBufSize ∧
    ∀ p ∈ idleOpen.packetsFrom .buf0 16 0, (rxRow p.cin p.p1).short = true := by decide
theorem witness_RxCompleteDeliversShortMessages :
    idleOpen.fault = none ∧ idleOpen.isOpen = true ∧ idleOpen.rxArmed.isSome = true ∧
    4 * [Packet.mk 0x05#8 0xF6#8 0#8 0#8, ⟨0x1F#8, 0xF8#8, 0xAA#8, 0xBB#8⟩].length
      ≤ idleOpen.cfg.rxBufSize ∧
    ∀ p ∈ [Packet.mk 0x05#8 0xF6#8 0#8 0#8, ⟨0x1F#8, 0xF8#8, 0xAA#8, 0xBB#8⟩],
      (rxRow p.cin p.p1).short = true := by decide
theorem witness_ThreeByteRowsDeliver :
    idleOpen.fault = none ∧ Packet.cin ⟨0xA0#8, 0#8, 0#8, 0#8⟩ = 0x0#4 ∧
    Packet.cin ⟨0xA1#8, 0#8, 0#8, 0#8⟩ = 0x1#4 ∧ Packet.cin ⟨0xA3#8, 0#8, 0#8, 0#8⟩ = 0x3#4 ∧
    Packet.cin ⟨0xA8#8, 0#8, 0#8, 0#8⟩ = 0x8#4 ∧ Packet.cin ⟨0xA9#8, 0#8, 0#8, 0#8⟩ = 0x9#4 ∧
    Packet.cin ⟨0xAA#8, 0#8, 0#8, 0#8⟩ = 0xA#4 ∧ Packet.cin ⟨0xAB#8, 0#8, 0#8, 0#8⟩ = 0xB#4 ∧
    Packet.cin ⟨0xAE#8, 0#8, 0#8, 0#8⟩ = 0xE#4 ∧
    Instr.rxCinE 0xA#4 0#8 0#8 0#8 ∈ [Instr.rxCin0 0xA#4 0#8 0#8 0#8, .rxCinE 0xA#4 0#8 0#8 0#8] := by decide
theorem witness_ShorterRowsDeliver :
    idleOpen.fault = none ∧ Packet.cin ⟨0xA2#8, 0#8, 0#8, 0#8⟩ = 0x2#4 ∧
    Packet.cin ⟨0xAC#8, 0#8, 0#8, 0#8⟩ = 0xC#4 ∧ Packet.cin ⟨0xAD#8, 0#8, 0#8, 0#8⟩ = 0xD#4 ∧
    Packet.cin ⟨0xA5#8, 0xF6#8, 0#8, 0#8⟩ = 0x5#4 ∧
    (Packet.mk 0xA5#8 0xF6#8 0#8 0#8).p1 = 0xF6#8 ∧
    Packet.cin ⟨0xAF#8, 0#8, 0#8, 0#8⟩ = 0xF#4 := by decide
theorem witness_SysexRowsRunReassembler :
    Packet.cin ⟨0xA4#8, 0#8, 0#8, 0#8⟩ = 0x4#4 ∧ Packet.cin ⟨0xA5#8, 0xF7#8, 0#8, 0#8⟩ = 0x5#4 ∧
    (Packet.mk 0xA5#8 0xF7#8 0#8 0#8).p1 ≠ 0xF6#8 ∧ Packet.cin ⟨0xA6#8, 0#8, 0#8, 0#8⟩ = 0x6#4 ∧
    Packet.cin ⟨0xA7#8, 0#8, 0#8, 0#8⟩ = 0x7#4 := by decide
theorem witness_AppendStoresBehindBuffer :
    (midSysex 3).fault = none ∧
    appendBytes (.rxCin4 0xA#4 1#8 2#8 3#8) = some (0xA#4, [1#8, 2#8, 3#8]) ∧
    appendBytes (.sxAppend 0xA#4 1#8 2#8 3#8) = some (0xA#4, [1#8, 2#8, 3#8]) ∧
    ((midSysex 3).session 0xA#4).buf = some 100 ∧ 3 ≤ ((midSysex 3).session 0xA#4).capLeft := by decide
theorem witness_AppendRequestsBufferFirst :
    idleOpen.fault = none ∧ appendBytes (.rxCin4 0xA#4 1#8 2#8 3#8) = some (0xA#4, [1#8, 2#8, 3#8]) ∧
    (idleOpen.session 0xA#4).buf = none ∧ 3 ≤ idleOpen.nextAnswer.cap ∧
    ((midSysex 2).session 0xA#4).capLeft < 3 ∧ 3 ≤ (midSysex 2).nextAnswer.cap := by decide
theorem witness_BufferRequestInstallsOrFaults :
    idleOpen.fault = none ∧ 64 ≤ idleOpen.nextAnswer.cap ∧ idleOpen.nextAnswer.cap < 65 := by decide
theorem witness_UnusableAnswerFaults :
    let s : State := { midSysex 2 with answers := [⟨7, 2⟩] }
    s.fault = none ∧ appendBytes (.sxAppend 0xA#4 1#8 2#8 3#8) = some (0xA#4, [1#8, 2#8, 3#8]) ∧
    (s.session 0xA#4).capLeft < 3 ∧ (s.session 0x0#4).buf = none ∧ s.nextAnswer.cap < 3 := by decide
theorem witness_TerminationDeliversMessage :
    (midSysex 3).fault = none ∧
    termBytes (.rxCin7 0xA#4 1#8 2#8 3#8) = some (0xA#4, [1#8, 2#8, 3#8]) ∧
    termBytes (.rxCin5Term 0xA#4 0xF7#8 2#8 3#8) = some (0xA#4, [0xF7#8]) ∧
    termBytes (.rxCin6 0xA#4 1#8 0xF7#8 3#8) = some (0xA#4, [1#8, 0xF7#8]) ∧
    termBytes (.sxTerm 0xA#4 2 [1#8, 0xF7#8]) = some (0xA#4, [1#8, 0xF7#8]) ∧
    ((midSysex 3).session 0xA#4).buf = some 100 ∧
    [1#8, 2#8, 3#8].length ≤ ((midSysex 3).session 0xA#4).capLeft := by decide
theorem witness_TerminationWithoutRoomFollowsPolicy_fault :
    (midSysex 2).fault = none ∧ (midSysex 2).cfg.termPolicy = .fault ∧
    termBytes (.rxCin7 0xA#4 1#8 2#8 3#8) = some (0xA#4, [1#8, 2#8, 3#8]) ∧
    (idleOpen.session 0xA#4).buf = none ∧ idleOpen.fault = none ∧ idleOpen.cfg.termPolicy = .fault ∧
    ((midSysex 2).session 0xA#4).buf = some 100 ∧
    ((midSysex 2).session 0xA#4).capLeft < [1#8, 2#8, 3#8].length := by decide
theorem witness_TerminationWithoutRoomFollowsPolicy_request :
    let s : State := requesting (midSysex 2)
    let u : State := { s with answers := [⟨7, 2⟩] }
    s.fault = none ∧ s.cfg.termPolicy = .request ∧
    termBytes (.rxCin7 0xA#4 1#8 2#8 3#8) = some (0xA#4, [1#8, 2#8, 3#8]) ∧
    (s.session 0xA#4).capLeft < 3 ∧ 3 ≤ s.nextAnswer.cap ∧ (s.session 0x0#4).buf = none ∧
    u.fault = none ∧ u.cfg.termPolicy = .request ∧ (u.session 0xA#4).capLeft < 3 ∧
    u.nextAnswer.cap < 3 := by decide
theorem witness_SxResetEmptiesAllSessions : (midSysex 2).fault = none := by decide
theorem witness_SysexStoresOnlyItsBytes :
    (∃ t, exec (.rxCin4 0xA#4 1#8 2#8 3#8) (midSysex 3) = .next t) ∧
    storedBytes (.rxCin4 0xA#4 1#8 2#8 3#8) = some (0xA#4, [1#8, 2#8, 3#8]) ∧
    storeAddr 0xA#4 3 (midSysex 3) = 103 ∧ 106 ≤ 106 ∧ 102 < 103 ∧
    (∃ t, exec .portClose (midSysex 3) = .next t) ∧ storedBytes .portClose = none ∧
    (∀ f len, Instr.portClose ≠ .decodeChunk f len) ∧ (∀ st d, Instr.portClose ≠ .rxComplete st d) :=
  ⟨⟨_, rfl⟩, rfl, rfl, by decide, by decide, ⟨_, rfl⟩, rfl, by simp, by simp⟩
theorem witness_SysexBytesReadBack :
    ∃ t, exec (.rxCin6 0xA#4 1#8 0xF7#8 3#8) (midSysex 3) = .next t ∧ (midSysex 3).fault = none ∧
      storedBytes (.rxCin6 0xA#4 1#8 0xF7#8 3#8) = some (0xA#4, [1#8, 0xF7#8]) ∧ t.outcome = .ok :=
  ⟨_, rfl, by decide, rfl, by decide⟩
theorem witness_StoresStayInLentBuffer :
    (∃ t, exec (.rxCin4 0xA#4 1#8 2#8 3#8) (midSysex 3) = .next t ∧
      storedBytes (.rxCin4 0xA#4 1#8 2#8 3#8) = some (0xA#4, [1#8, 2#8, 3#8]) ∧
      Memory.read t.sxmem 105 ≠ Memory.read (midSysex 3).sxmem 105) ∧
    (∃ t, exec (.rxComplete .success [0xA4#8, 1#8, 2#8, 3#8]) idleOpen = .next t ∧
      Memory.read t.sxmem 100 ≠ Memory.read idleOpen.sxmem 100) :=
  ⟨⟨_, rfl, rfl, by decide⟩, ⟨_, rfl, by decide⟩⟩
theorem witness_ChunkLeavesOtherCablesAlone :
    (∃ t, exec (.decodeChunk .buf0 8) (midSysex 3) = .next t) ∧
    ∀ p ∈ (midSysex 3).packetsFrom .buf0 (8 / 4) 0, p.cable ≠ 0xA#4 :=
  ⟨⟨_, rfl⟩, by decide⟩
/-- Both sides of the equivalence occur: a Note On comes back, a Song Position Pointer does not (P4). -/
theorem witness_ShortRoundTripExactly :
    idleOpen.fault = none ∧ [0x3C#8, 0x7F#8].length ≤ 2 ∧
    Packet.bytes ⟨0x09#8, 0x90#8, 0x3C#8, 0x7F#8⟩ =
      frameShort idleOpen.cfg 0x0#4 0x90#8 [0x3C#8, 0x7F#8] ∧
    Packet.bytes ⟨0x03#8, 0xF2#8, 0x12#8, 0x00#8⟩ =
      frameShort idleOpen.cfg 0x0#4 0xF2#8 [0x12#8, 0x34#8] := by decide
theorem witness_SysexRoundTripDeliversBytes :
    let bytes := [0xF0#8, 0x7D#8, 0x01#8, 0xF7#8]
    let s : State := { idleOpen with rxbuf0 := frameSysex 0x1#4 bytes ++ List.replicate 56 0#8 }
    s.fault = none ∧ (s.session 0x1#4).buf = none ∧ 4 ≤ bytes.length ∧
    (bytes.length % 3 = 1 → bytes.getLast? ≠ some 0xF6#8) ∧
    (frameSysex 0x1#4 bytes).length ≤ s.cfg.rxBufSize ∧
    (s.rxbuf .buf0).take (frameSysex 0x1#4 bytes).length = frameSysex 0x1#4 bytes ∧
    bytes.length ≤ s.nextAnswer.cap := by decide
theorem witness_PortOpenArmsBufferZero :
    faulted.fault = some .sysExOverrun ∧ State.reset.fault = none ∧ State.reset.isOpen = false ∧
    idleOpen.fault = none ∧ idleOpen.isOpen = true := by decide
theorem witness_PortCloseDiscardsPendingWork :
    faulted.fault = some .sysExOverrun ∧ sendingOne.fault = none ∧ sendingOne.isOpen = true ∧
    State.reset.fault = none ∧ State.reset.isOpen = false := by decide
theorem witness_CloseAbandonsSysexInProgress :
    (midSysex 2).fault = none ∧ (midSysex 2).isOpen = true ∧ 3 ≤ (midSysex 2).nextAnswer.cap := by decide
theorem witness_RefusedWhileFaultLatched :
    faulted.fault = some .sysExOverrun ∧ Instr.txComplete .success ≠ .reset := by decide
theorem witness_ErrorsLeaveStateUnchanged :
    ∃ t, exec (.txComplete .other) sendingOne = .next t ∧ t.outcome = .err .transferError :=
  ⟨_, rfl, by decide⟩
theorem witness_FaultOutcomeIsLatchedCause :
    ∃ t, exec (.rxCin5Term 0x0#4 0xF7#8 0#8 0#8) idleOpen = .next t ∧
      t.outcome = .fault .sysExTermNoSession ∧ t.fault = some .sysExTermNoSession :=
  ⟨_, rfl, by decide, by decide⟩
theorem witness_StopsExactlyWhereNamed :
    let s : State := { sendingOne with txInflight := none, rxArmed := none }
    idleOpen.fault = none ∧ idleOpen.txq = [] ∧ idleOpen.cfg.rxBufSize < 65 ∧
    s.fault = none ∧ s.isOpen = true ∧ s.txInflight = none ∧ s.sending = true ∧
    s.rxArmed = none := by decide
theorem witness_TraceGrowsParametersStay :
    ∃ t, exec (.rxComplete .success [0x0F#8, 0xF8#8, 0#8, 0#8]) idleOpen = .next t := ⟨_, rfl⟩
theorem witness_ProducerTouchesOnlyTheQueue :
    agentsOf (.write 0x0#4 [0xF8#8]) = [.producer] ∧
    ∃ t, exec (.write 0x0#4 [0xF8#8]) sendingOne = .next t := ⟨rfl, ⟨_, rfl⟩⟩
theorem witness_StepKeepsStateInv :
    let s := waiting midWork [.op (.txComplete .success)]
    StateInv s ∧ ∃ t, step s = .next t :=
  ⟨(witness_runInv_waiting _ (by decide)).base, ⟨_, rfl⟩⟩
theorem witness_StepKeepsRunInv :
    let s := waiting midWork [.op (.rxComplete .success [0x04#8, 0xF0#8, 1#8, 2#8])]
    RunInv s ∧ ∃ t, step s = .next t :=
  ⟨witness_runInv_waiting _ (by decide), ⟨_, rfl⟩⟩
theorem witness_StallLastsUntilCloseOrReset :
    let s : State := { sendingOne with txInflight := none, rxArmed := none }
    let i := Instr.write 0x0#4 [0xF8#8]
    s.isOpen = true ∧ i ≠ .portClose ∧ i ≠ .reset ∧ (∃ t, exec i s = .next t) ∧ s.rxArmed = none ∧
      s.sending = true ∧ s.txInflight = none ∧ i ≠ .handover :=
  ⟨rfl, by decide, by decide, ⟨_, rfl⟩, rfl, rfl, rfl, by decide⟩

end Sys2Proof.Tests
end

section
/-! PROOFS of the family 00_scope.md (O53, O54, O55): the three outcomes of an operation, where an instruction
stops, and what no instruction writes. -/

namespace Sys2Proof.Machine

/-! ### Outcomes (00_scope.md R7; 60_exceptions.md R272) -/

/-- `RESET` always completes (45_port.md R254). -/
theorem exec_reset (s : State) : exec .reset s = .next (resetBlock s) := rfl

@[simp] theorem resetBlock_outcome (s : State) : (resetBlock s).outcome = .ok := rfl

@[simp] theorem resetBlock_fault (s : State) : (resetBlock s).fault = none := rfl

theorem State.endOutcome_eq_fault_iff {s : State} {cause : FaultCause} :
    s.endOutcome = .fault cause ↔ s.fault = some cause := by
  cases h : s.fault with
  | none => simp [State.endOutcome_none h]
  | some c => simp [State.endOutcome_some h]

/-- Settles O53: `RESET` clears the cause and returns Ok, a refusal returns the cause that stands, an error
comes with none, and an operation that ends returns the cause its state holds. -/
theorem faultOutcomeIsLatchedCause : Obligations.FaultOutcomeIsLatchedCause := by
  intro i s t cause h
  by_cases hr : i = .reset
  · subst hr
    obtain rfl := Host.Outcome.next.inj ((exec_reset s).symm.trans h)
    simp
  · rcases exec_next_cases h hr with ⟨c, hf, rfl⟩ | ⟨e, hf, -, rfl⟩ | ⟨u, -, -, rfl⟩
    · simp [delivered_fault, hf]
    · simp [delivered_fault, hf]
    · exact State.endOutcome_eq_fault_iff

/-! ### Stops (00_scope.md R7; 41_txflow.md R141; 43_decode.md R180; 42_rxhandoff.md R166) -/

theorem execHandover_empty {s : State} (hf : s.fault = none) (hq : s.txq = []) :
    execHandover s = .fault .handoverEmptyQueue := if_pos ⟨hf, hq⟩

theorem execDecodeChunk_beyond {s : State} {f : RxIdx} {len : Nat} (hf : s.fault = none)
    (hl : s.cfg.rxBufSize < len) : execDecodeChunk f len s = .fault .rxBufferRange := if_pos ⟨hf, hl⟩

theorem execTxComplete_not_owed {s : State} {st : XferStatus} (hf : s.fault = none)
    (ho : s.isOpen = true) (hn : s.txOwed st = false) :
    execTxComplete st s = .refused .noMove := if_pos ⟨hf, ho, hn⟩

theorem execRxComplete_not_owed {s : State} {st : XferStatus} {data : List Byte} (hf : s.fault = none)
    (ho : s.isOpen = true) (hn : s.rxOwed = false) :
    execRxComplete st data s = .refused .noMove := if_pos ⟨hf, ho, hn⟩

/-- Outside the named stops an instruction completes. -/
theorem exec_next_of_not_stops {i : Instr} {s : State} (hs : ¬ Stops i s) : ∃ t, exec i s = .next t := by
  by_cases hr : i = .reset
  · subst hr
    exact ⟨_, exec_reset s⟩
  · rw [exec_eq_invoke hr hs]
    rcases invoke_cases (opOf i) (delivered i s) with ⟨_, -, h⟩ | ⟨_, -, -, h⟩ | ⟨_, -, -, h⟩ <;>
      exact ⟨_, h⟩

/-- Settles O54: each named stop is a guard of its meaning, and outside `Stops` an instruction is `RESET` or one
invocation, which always answers a next state. -/
theorem stopsExactlyWhereNamed : Obligations.StopsExactlyWhereNamed := by
  refine ⟨fun s hf hq => execHandover_empty hf hq, fun s f len hf hl => execDecodeChunk_beyond hf hl,
    fun s st hf ho hi hs => execTxComplete_not_owed hf ho (State.txOwed_eq_false.mpr ⟨hi, hs⟩),
    fun s st data hf ho ha => execRxComplete_not_owed hf ho (State.rxOwed_eq_false.mpr ha), ?_⟩
  intro i s
  by_cases hs : Stops i s
  · right
    obtain ⟨hf, ⟨hi, hq⟩ | ⟨f, len, hi, hl⟩ | ⟨st, hi, ho, hn⟩ | ⟨st, data, hi, ho, hn⟩⟩ := hs
    · exact .inl ⟨hi, hf, hq⟩
    · exact .inr (.inl ⟨f, len, hi, hf, hl⟩)
    · obtain ⟨hfl, hsend⟩ := State.txOwed_eq_false.mp hn
      exact .inr (.inr (.inl ⟨st, hi, hf, ho, hfl, hsend⟩))
    · exact .inr (.inr (.inr ⟨st, data, hi, hf, ho, State.rxOwed_eq_false.mp hn⟩))
  · exact .inl (exec_next_of_not_stops hs)

/-! ### The trace, the parameters and the inbox (00_scope.md R8; 10_state.md R32, R33) -/

/-- The trace only grows, the parameters and the inbox stay. -/
structure TraceFrame (s t : State) : Prop where
  trace : ∃ ev, t.trace = s.trace ++ ev
  cfg : t.cfg = s.cfg
  inbox : t.inbox = s.inbox

namespace TraceFrame

/-- An operation that emits nothing. -/
theorem of_eq {s t : State} (ht : t.trace = s.trace) (hc : t.cfg = s.cfg) (hi : t.inbox = s.inbox) :
    TraceFrame s t := ⟨⟨[], by simp [ht]⟩, hc, hi⟩

theorem refl (s : State) : TraceFrame s s := of_eq rfl rfl rfl

theorem trans {s t u : State} (h : TraceFrame s t) (k : TraceFrame t u) : TraceFrame s u := by
  obtain ⟨ev, he⟩ := h.trace
  obtain ⟨ev', he'⟩ := k.trace
  exact ⟨⟨ev ++ ev', by rw [he', he, List.append_assoc]⟩, k.cfg.trans h.cfg, k.inbox.trans h.inbox⟩

theorem of_decodeFrame {P : Cable → Prop} {s t : State} (h : DecodeFrame P s t) : TraceFrame s t :=
  ⟨h.trace.imp fun _ hev => hev.1, h.cfg, h.inbox⟩

end TraceFrame

theorem emit_traceFrame (s : State) (e : Event) : TraceFrame s (s.emit e) := ⟨⟨[e], rfl⟩, rfl, rfl⟩

theorem giveResult_traceFrame (s : State) (bytes : List Byte) : TraceFrame s (s.giveResult bytes) :=
  .of_eq rfl rfl rfl

theorem sxReset_traceFrame (s : State) : TraceFrame s (sxReset s) := .of_eq rfl rfl rfl

theorem resetBlock_traceFrame (s : State) : TraceFrame s (resetBlock s) := .of_eq rfl rfl rfl

theorem handover_traceFrame (s : State) : TraceFrame s (handover s) := ⟨⟨_, rfl⟩, rfl, rfl⟩

theorem portOpen_traceFrame (s : State) : TraceFrame s (portOpen s) := by
  unfold portOpen
  split
  · exact .refl s
  · exact ⟨⟨_, List.append_assoc s.trace [.armIn .buf0 s.cfg.rxBufSize] [.portOpened]⟩, rfl, rfl⟩

theorem portClose_traceFrame (s : State) : TraceFrame s (portClose s) := by
  unfold portClose
  split
  · exact ⟨⟨[.portClosed], rfl⟩, rfl, rfl⟩
  · exact .refl s

theorem classRow_traceFrame {data pkt : List Byte} {s u : State} (h : classRow data pkt s = .ok u) :
    TraceFrame s u := by
  unfold classRow at h
  split at h
  · obtain rfl := Except.ok.inj h
    exact giveResult_traceFrame s pkt
  · cases h

theorem encShort_traceFrame {p : Params} {c : Cable} {m : List Byte} {s u : State}
    (h : (encShort p c m).map s.giveResult = .ok u) : TraceFrame s u := by
  cases he : encShort p c m with
  | error e => rw [he] at h; cases h
  | ok pkt =>
    rw [he] at h
    obtain rfl := Except.ok.inj h
    exact giveResult_traceFrame s pkt

theorem submitted_traceFrame (f : List Byte) (s : State) : TraceFrame s (submitted f s) := by
  obtain ⟨ev, he, -, -⟩ := submitted_bytes f s
  have hs := submitted_frame f s
  exact ⟨⟨ev, he⟩, (congrArg State.cfg hs).trans rfl, (congrArg State.inbox hs).trans rfl⟩

theorem submit_traceFrame {f : List Byte} {s u : State} (h : submit f s = .ok u) : TraceFrame s u := by
  obtain ⟨-, rfl⟩ | ⟨-, -, rfl⟩ := submit_ok h
  · exact .refl _
  · exact submitted_traceFrame f s

theorem txComplete_traceFrame {st : XferStatus} {s u : State} (h : txComplete st s = .ok u) :
    TraceFrame s u := by
  obtain rfl | ⟨-, -, t, ht, rfl⟩ := txComplete_ok h
  · exact .refl _
  · have hst : TraceFrame s t := by
      obtain ⟨-, rfl⟩ | ⟨-, rfl⟩ := ht
      · exact .of_eq rfl rfl rfl
      · exact handover_traceFrame s
    split
    · exact hst.trans (emit_traceFrame t _)
    · exact hst

theorem rxAccept_traceFrame (data : List Byte) (s : State) : TraceFrame s (rxAccept data s) := by
  have harm : TraceFrame s
      (((s.writeRx s.rxActive data).setRxActive (otherIdx s.rxActive)).armIn (otherIdx s.rxActive)) :=
    ⟨⟨[.armIn (otherIdx s.rxActive) s.cfg.rxBufSize], by simp⟩, by simp, by simp⟩
  exact harm.trans (.of_decodeFrame (decodeChunk_frame _ _ _))

theorem rxComplete_traceFrame {st : XferStatus} {data : List Byte} {s u : State}
    (h : rxComplete st data s = .ok u) : TraceFrame s u := by
  obtain rfl | ⟨-, -, ⟨-, rfl⟩ | ⟨-, -, rfl⟩⟩ := rxComplete_ok h
  · exact .refl _
  · exact .of_eq rfl rfl rfl
  · exact rxAccept_traceFrame data s

theorem opOf_traceFrame {i : Instr} {s u : State} (h : opOf i s = .ok u) : TraceFrame s u := by
  cases i with
  | rxCin0 | rxCin1 | rxCin2 | rxCin3 | rxCin5F6 | rxCin8 | rxCin9 | rxCinA | rxCinB | rxCinC | rxCinD
  | rxCinE | rxCinF =>
    obtain rfl := Except.ok.inj h
    exact emit_traceFrame s _
  | rxCin4 c b1 b2 b3 | sxAppend c b1 b2 b3 =>
    obtain rfl := Except.ok.inj h
    exact .of_decodeFrame (sxAppend_frame c b1 b2 b3 s)
  | rxCin5Term c | rxCin6 c | rxCin7 c | sxTerm c =>
    obtain rfl := Except.ok.inj h
    exact .of_decodeFrame (sxTerm_frame c _ s)
  | encShortPc | encShortSpp | encShortSc1 | encShortDefault => exact classRow_traceFrame h
  | encSysexCont | encSysexEnd1 | encSysexEnd2 | encSysexEnd3 | encSysex =>
    obtain rfl := Except.ok.inj h
    exact giveResult_traceFrame s _
  | encShort => exact encShort_traceFrame h
  | write =>
    obtain ⟨-, _, _, -, -, hsub⟩ := write_ok h
    exact submit_traceFrame hsub
  | sysexWrite => exact submit_traceFrame (sysexWrite_ok h).2
  | sendRaw c =>
    obtain ⟨-, -, hsub⟩ := sendRaw_ok (c := c) h
    exact submit_traceFrame hsub
  | submit => exact submit_traceFrame h
  | handover =>
    obtain rfl := Except.ok.inj h
    exact handover_traceFrame s
  | txComplete => exact txComplete_traceFrame h
  | rxComplete => exact rxComplete_traceFrame h
  | decodeChunk f len =>
    obtain rfl := Except.ok.inj h
    exact .of_decodeFrame (decodeChunk_frame f len s)
  | sxBufreq c need =>
    obtain rfl := Except.ok.inj h
    exact .of_decodeFrame (sxBufreq_frame c need s)
  | sxReset =>
    obtain rfl := Except.ok.inj h
    exact sxReset_traceFrame s
  | portOpen =>
    obtain rfl := Except.ok.inj h
    exact portOpen_traceFrame s
  | portClose =>
    obtain rfl := Except.ok.inj h
    exact portClose_traceFrame s
  | reset =>
    obtain rfl := Except.ok.inj h
    exact resetBlock_traceFrame s

theorem delivered_traceFrame (i : Instr) (s : State) : TraceFrame s (delivered i s) := by
  cases i <;> exact .of_eq rfl rfl rfl

/-- Recording the outcome touches none of the three. -/
theorem TraceFrame.withOutcome {s t : State} (h : TraceFrame s t) (o : OpOutcome) :
    TraceFrame s { t with outcome := o } := ⟨h.trace, h.cfg, h.inbox⟩

theorem exec_traceFrame {i : Instr} {s t : State} (h : exec i s = .next t) : TraceFrame s t := by
  by_cases hr : i = .reset
  · subst hr
    obtain rfl := Host.Outcome.next.inj ((exec_reset s).symm.trans h)
    exact resetBlock_traceFrame s
  · have hd := delivered_traceFrame i s
    rcases exec_next_cases h hr with ⟨_, -, rfl⟩ | ⟨_, -, -, rfl⟩ | ⟨u, -, ho, rfl⟩
    · exact hd.withOutcome _
    · exact hd.withOutcome _
    · exact (hd.trans (opOf_traceFrame ho)).withOutcome _

/-- Settles O55: every operation keeps `TraceFrame`, and so do taking the notification and recording the
outcome around it. -/
theorem traceGrowsParametersStay : Obligations.TraceGrowsParametersStay := fun _ _ _ h =>
  have hf := exec_traceFrame h
  ⟨hf.trace, hf.cfg, hf.inbox⟩

end Sys2Proof.Machine
end

section
/-! PROOFS of the family 10_state.md (O1, O51, O56, O57, O58, O59): the reset state, the refusal under a latched
fault, the frame of a producer operation, and the two invariants of R37. -/

namespace Sys2Proof.Machine

/-! ### Reset (10_state.md R36) -/

theorem reset_session (c : Cable) : State.reset.session c = Session.empty :=
  State.session_of_replicate rfl c

/-- Settles O1: field by field, and the 16 sessions by the one lemma about a reset session file. -/
theorem resetStateHasSpecValues : Obligations.ResetStateHasSpecValues :=
  ⟨rfl, rfl, rfl, rfl, reset_session, rfl, rfl, rfl⟩

theorem reset_stateInv : StateInv State.reset :=
  have hsx : SxInv State.reset := .of_empty rfl Memory.wf_reset
  { params := by decide
    queue_fits := Nat.zero_le _
    queue_packets := rfl
    queue_idle := fun _ => rfl
    submits := fun _ he => absurd he List.not_mem_nil
    sessions := hsx.sessions
    lent := hsx.lent
    rxbuf_size := fun f => by cases f <;> exact List.length_replicate
    memory := hsx.memory
    armed := fun _ hf => nomatch hf }

/-! ### Refusal under a latched fault (10_state.md R31) -/

/-- Settles O51: no instruction stops under a latched fault, so each but `RESET` is one invocation, and that
invocation is refused. -/
theorem refusedWhileFaultLatched : Obligations.RefusedWhileFaultLatched := by
  intro i s cause hf hr
  have hs : ¬ Stops i s := by
    rintro ⟨hn, -⟩
    rw [hf] at hn
    cases hn
  rw [exec_eq_invoke hr hs]
  exact invoke_refused ((delivered_fault i s).trans hf)

/-! ### Producer operations (10_state.md R34; 60_exceptions.md R282) -/

/-- A producer operation that answers no error is one submission of whole packets, on an open port. -/
theorem opOf_producer_ok {i : Instr} {s u : State} (hi : agentsOf i = [.producer]) (h : opOf i s = .ok u) :
    s.isOpen = true ∧ ∃ f, f.length % 4 = 0 ∧ submit f s = .ok u := by
  cases i with
  | write c m =>
    obtain ⟨ho, b, data, -, -, hsub⟩ := write_ok h
    exact ⟨ho, _, by rw [frameShort_length], hsub⟩
  | sysexWrite c bytes =>
    obtain ⟨ho, hsub⟩ := sysexWrite_ok h
    exact ⟨ho, _, by rw [frameSysex_length]; exact Nat.mul_mod_right 4 _, hsub⟩
  | sendRaw c framed =>
    obtain ⟨ho, hm, hsub⟩ := sendRaw_ok (c := c) h
    exact ⟨ho, framed, hm, hsub⟩
  | _ => simp [agentsOf] at hi

/-- The producer's operations carry no notification. -/
theorem delivered_producer {i : Instr} (hi : agentsOf i = [.producer]) (s : State) : delivered i s = s := by
  cases i with
  | txComplete | rxComplete => simp [agentsOf] at hi
  | _ => rfl

/-- Settles O56: refused or in error it changes the outcome alone, else it is one submission, whose frame
`submitted_frame` states. -/
theorem producerTouchesOnlyTheQueue : Obligations.ProducerTouchesOnlyTheQueue := by
  intro i s t hi h
  have hr : i ≠ .reset := by
    rintro rfl
    simp [agentsOf] at hi
  have hd := delivered_producer hi s
  rcases exec_next_cases h hr with ⟨c, -, rfl⟩ | ⟨e, -, -, rfl⟩ | ⟨u, -, ho, rfl⟩
  · rw [hd]
  · rw [hd]
  · rw [hd] at ho
    obtain ⟨-, f, -, hsub⟩ := opOf_producer_ok hi ho
    obtain ⟨-, rfl⟩ | ⟨-, -, rfl⟩ := submit_ok hsub
    · rfl
    · exact congrArg (fun v : State => { v with outcome := (submitted f s).endOutcome }) (submitted_frame f s)

/-! ### What a step is -/

/-- A step does nothing on an empty inbox, else it runs the instruction of the first command, which has left
the inbox (20_memory.md R60). -/
theorem step_next_cases {s t : State} (h : step s = .next t) :
    t = s ∨ ∃ cmd rest, s.inbox = cmd :: rest ∧ exec (decode cmd) { s with inbox := rest } = .next t := by
  cases hi : s.inbox with
  | nil =>
    simp only [step, State.fetch, hi] at h
    exact .inl (Host.Outcome.next.inj h).symm
  | cons cmd rest =>
    simp only [step, State.fetch, hi] at h
    exact .inr ⟨cmd, rest, rfl, h⟩

theorem classRow_ok {data pkt : List Byte} {s u : State} (h : classRow data pkt s = .ok u) :
    u = s.giveResult pkt := by
  unfold classRow at h
  split at h
  · exact (Except.ok.inj h).symm
  · cases h

theorem encShort_map_ok {p : Params} {c : Cable} {m : List Byte} {s u : State}
    (h : (encShort p c m).map s.giveResult = .ok u) : ∃ pkt, u = s.giveResult pkt := by
  obtain ⟨-, he⟩ | ⟨b, data, -, -, he⟩ := encShort_cases p c m <;> rw [he] at h
  · cases h
  · exact ⟨_, (Except.ok.inj h).symm⟩

/-- The state with `f` queued and `sending` set, before anything is handed over (41_txflow.md R140). -/
def queued (f : List Byte) (s : State) : State := { s with txq := s.txq ++ f, sending := true }

/-- A submission queues its bytes, and hands over at once when nothing was being sent. -/
theorem submitted_eq (f : List Byte) (s : State) :
    submitted f s = if s.sending then queued f s else handover (queued f s) := by
  cases hs : s.sending <;> simp [submitted, queued, hs, handover, State.submitOut]

/-! ### The state invariant, operation by operation (10_state.md R37) -/

/-- An event that carries a cable is no `SubmitOut`. -/
theorem submitOk_of_eventCable {p : Params} {e : Event} {c : Cable} (h : eventCable e = some c) :
    Event.submitOk p e := by
  cases e with
  | submitOut => cases h
  | _ => trivial

namespace StateInv

variable {s t u : State}

theorem withInbox (h : StateInv s) (cs : List Command) : StateInv { s with inbox := cs } := { h with }

theorem withOutcome (h : StateInv s) (o : OpOutcome) : StateInv { s with outcome := o } := { h with }

theorem giveResult (h : StateInv s) (bytes : List Byte) : StateInv (s.giveResult bytes) := { h with }

theorem latch (h : StateInv s) (x : FaultCause) : StateInv (s.latch x) := { h with }

theorem withInflight (h : StateInv s) (x : Option (List Byte)) : StateInv { s with txInflight := x } :=
  { h with }

theorem rxNotified (h : StateInv s) : StateInv s.rxNotified := { h with armed := fun _ hf => nomatch hf }

theorem delivered (h : StateInv s) (i : Instr) : StateInv (delivered i s) := by
  cases i with
  | txComplete => exact h.withInflight none
  | rxComplete => exact h.rxNotified
  | _ => exact h

theorem emit (h : StateInv s) {e : Event} (he : Event.submitOk s.cfg e) : StateInv (s.emit e) :=
  { h with
    submits := fun x hx => by
      obtain hx | hx := List.mem_append.mp hx
      · exact h.submits x hx
      · rw [List.mem_singleton.mp hx]; exact he
    lent := (h.sxInv.congr (t := s.emit e) rfl rfl ⟨_, rfl⟩).lent }

theorem setSending_false (h : StateInv s) (hq : s.txq = []) : StateInv (s.setSending false) :=
  { h with queue_idle := fun _ => hq }

/-- Whole packets that fit keep the queue's clauses. -/
theorem queued {f : List Byte} (h : StateInv s) (hm : f.length % 4 = 0)
    (hfit : s.txq.length + f.length ≤ s.cfg.qCap) : StateInv (queued f s) :=
  { h with
    queue_fits := Nat.le_trans (Nat.le_of_eq List.length_append) hfit
    queue_packets := by
      have := h.queue_packets
      simp only [Machine.queued, List.length_append]; omega
    queue_idle := fun hs => nomatch hs }

/-- A queue that is not empty gives a chunk of whole packets within `MAX_XFER`, and leaves whole packets. -/
theorem handover (h : StateInv s) (hq : s.txq ≠ []) : StateInv (handover s) := by
  obtain ⟨hx, hx4, -, -⟩ := h.params
  have hpos : 0 < s.txq.length := List.length_pos_iff.mpr hq
  have hq4 := h.queue_packets
  have hdrop : StateInv { s with txq := s.txq.drop (min s.txq.length s.cfg.maxXfer) } :=
    { h with
      queue_fits := Nat.le_trans (List.drop_sublist _ _).length_le h.queue_fits
      queue_packets := by simp only [List.length_drop]; omega
      queue_idle := fun hs => absurd (h.queue_idle hs) hq }
  refine (hdrop.emit (e := .submitOut (s.txq.take (min s.txq.length s.cfg.maxXfer))) ?_).withInflight _
  simp only [Event.submitOk, List.length_take]
  omega

theorem submitted {f : List Byte} (h : StateInv s) (hf : f ≠ []) (hm : f.length % 4 = 0)
    (hfit : s.txq.length + f.length ≤ s.cfg.qCap) : StateInv (submitted f s) := by
  have hq := h.queued hm hfit
  rw [submitted_eq]
  split
  · exact hq
  · exact hq.handover (by simp [Machine.queued, hf])

theorem submit {f : List Byte} (h : StateInv s) (hm : f.length % 4 = 0) (ho : submit f s = .ok u) :
    StateInv u := by
  obtain ⟨-, rfl⟩ | ⟨hf, hfit, rfl⟩ := submit_ok ho
  · exact h
  · exact h.submitted hf hm hfit

theorem producer {i : Instr} (h : StateInv s) (hi : agentsOf i = [.producer]) (ho : opOf i s = .ok u) :
    StateInv u := by
  obtain ⟨-, f, hm, hsub⟩ := opOf_producer_ok hi ho
  exact h.submit hm hsub

theorem txComplete {st : XferStatus} (h : StateInv s) (ho : txComplete st s = .ok u) : StateInv u := by
  obtain rfl | ⟨-, -, v, hv, rfl⟩ := txComplete_ok ho
  · exact h
  · have hi : StateInv v := by
      obtain ⟨hq, rfl⟩ | ⟨hq, rfl⟩ := hv
      · exact h.setSending_false hq
      · exact h.handover hq
    split
    · exact hi.emit trivial
    · exact hi


/-- Decoding keeps the clauses outside its frame, so only those about the sessions and SX are left to show. -/
theorem of_decodeFrame {P : Cable → Prop} (h : StateInv s) (k : DecodeFrame P s t) (hx : SxInv t) :
    StateInv t :=
  { params := k.cfg ▸ h.params
    queue_fits := by rw [k.txq, k.cfg]; exact h.queue_fits
    queue_packets := by rw [k.txq]; exact h.queue_packets
    queue_idle := by rw [k.sending, k.txq]; exact h.queue_idle
    submits := by
      obtain ⟨ev, he, hc⟩ := k.trace
      intro e hm
      rw [he] at hm
      rw [k.cfg]
      obtain hm | hm := List.mem_append.mp hm
      · exact h.submits e hm
      · obtain ⟨c, -, hec⟩ := hc e hm
        exact submitOk_of_eventCable hec
    sessions := hx.sessions
    lent := hx.lent
    rxbuf_size := fun f => by rw [k.rxbuf f, k.cfg]; exact h.rxbuf_size f
    memory := hx.memory
    armed := by rw [k.rxArmed, k.rxActive]; exact h.armed }

theorem packetEffect (h : StateInv s) (hf : s.fault = none) (p : Packet) : StateInv (packetEffect p s) :=
  h.of_decodeFrame (packetEffect_frame p s) (h.sxInv.packetEffect hf p)

theorem decodeChunk (h : StateInv s) (hf : s.fault = none) (f : RxIdx) (len : Nat) :
    StateInv (decodeChunk f len s) :=
  h.of_decodeFrame (decodeChunk_frame f len s) (h.sxInv.decodeFrom hf f (len / 4) 0)

/-- A chunk that fits leaves the buffer its size (20_memory.md R50). -/
theorem writeRx (h : StateInv s) (f : RxIdx) {data : List Byte} (hl : data.length ≤ s.cfg.rxBufSize) :
    StateInv (s.writeRx f data) := by
  have hlen : data.length + ((s.rxbuf f).length - data.length) = s.cfg.rxBufSize := by
    rw [h.rxbuf_size]; omega
  cases f with
  | buf0 =>
    exact { h with rxbuf_size := fun
      | .buf0 => by simpa [State.rxbuf, State.writeRx] using hlen
      | .buf1 => h.rxbuf_size .buf1 }
  | buf1 =>
    exact { h with rxbuf_size := fun
      | .buf0 => h.rxbuf_size .buf0
      | .buf1 => by simpa [State.rxbuf, State.writeRx] using hlen }

/-- A buffer is armed as it becomes the active one (10_state.md R30). -/
theorem activate (h : StateInv s) (f : RxIdx) : StateInv ((s.setRxActive f).armIn f) :=
  have ha : StateInv { s with rxActive := f, rxArmed := some f } :=
    { h with armed := fun _ hg => (Option.some.inj hg).symm }
  ha.emit (e := .armIn f s.cfg.rxBufSize) trivial

theorem rxAccept {data : List Byte} (h : StateInv s) (hf : s.fault = none)
    (hl : data.length ≤ s.cfg.rxBufSize) : StateInv (rxAccept data s) :=
  ((h.writeRx s.rxActive hl).activate (otherIdx s.rxActive)).decodeChunk
    ((State.writeRx_fault s _ _).trans hf) _ _

theorem rxComplete {st : XferStatus} {data : List Byte} (h : StateInv s) (hf : s.fault = none)
    (ho : rxComplete st data s = .ok u) : StateInv u := by
  obtain rfl | ⟨-, -, ⟨-, rfl⟩ | ⟨-, hl, rfl⟩⟩ := rxComplete_ok ho
  · exact h
  · exact h.latch _
  · exact h.rxAccept hf hl

theorem sxReset (h : StateInv s) : StateInv (sxReset s) :=
  have hx : SxInv (Machine.sxReset s) := .of_empty rfl h.memory
  { h with sessions := hx.sessions, lent := hx.lent }

theorem portOpen (h : StateInv s) : StateInv (portOpen s) := by
  unfold Machine.portOpen
  split
  · exact h
  · have ho : StateInv ({ s with txInflight := none }.setOpen true) := { h with }
    exact (ho.activate .buf0).emit trivial

theorem portClose (h : StateInv s) : StateInv (portClose s) := by
  unfold Machine.portClose
  split
  · have hc : StateInv { (s.setOpen false).setSending false with txq := [] } :=
      { h with queue_fits := Nat.zero_le _, queue_packets := rfl, queue_idle := fun _ => rfl }
    exact hc.sxReset.emit trivial
  · exact h

theorem resetBlock (h : StateInv s) : StateInv (resetBlock s) :=
  { h.sxReset with
    queue_fits := Nat.zero_le _
    queue_packets := rfl
    queue_idle := fun _ => rfl
    rxbuf_size := fun f => by cases f <;> exact (List.length_map _).trans List.length_range
    armed := fun _ hf => nomatch hf }

/-- Every operation a command can name. The queue is not empty where `HANDOVER` runs, and a submission is of
whole packets by the command's own condition. -/
theorem opOf_decode {cmd : Command} (h : StateInv s) (hf : s.fault = none)
    (hq : decode cmd = .handover → s.txq ≠ []) (ho : opOf (decode cmd) s = .ok u) : StateInv u := by
  cases cmd with
  | packet p =>
    obtain rfl := Except.ok.inj ((packetEffect_eq_opOf p s).symm.trans ho)
    exact h.packetEffect hf p
  | status b c data =>
    simp only [decode, StatusRow.toInstr] at ho
    split at ho <;>
    · obtain rfl := classRow_ok ho
      exact h.giveResult _
  | group c g =>
    cases g <;>
    · obtain rfl := Except.ok.inj ho
      exact h.giveResult _
  | op call =>
    cases call with
    | encShort =>
      obtain ⟨pkt, rfl⟩ := encShort_map_ok ho
      exact h.giveResult pkt
    | encSysex =>
      obtain rfl := Except.ok.inj ho
      exact h.giveResult _
    | write c m => exact h.producer (i := .write c m) rfl ho
    | sysexWrite c bytes => exact h.producer (i := .sysexWrite c bytes) rfl ho
    | sendRaw c framed => exact h.producer (i := .sendRaw c framed) rfl ho
    | submit f packets => exact h.submit packets ho
    | handover =>
      obtain rfl := Except.ok.inj ho
      exact h.handover (hq rfl)
    | txComplete st => exact h.txComplete ho
    | rxComplete st data => exact h.rxComplete hf ho
    | decodeChunk f len =>
      obtain rfl := Except.ok.inj ho
      exact h.decodeChunk hf f len
    | sxAppend c b1 b2 b3 =>
      obtain rfl := Except.ok.inj ho
      exact h.of_decodeFrame (sxAppend_frame c b1 b2 b3 s) (h.sxInv.sxAppend hf c b1 b2 b3)
    | sxBufreq c need =>
      obtain rfl := Except.ok.inj ho
      exact h.of_decodeFrame (sxBufreq_frame c need s) (h.sxInv.sxBufreq c need)
    | sxTerm c n bs =>
      obtain rfl := Except.ok.inj ho
      exact h.of_decodeFrame (sxTerm_frame c _ s) (h.sxInv.sxTerm hf c _)
    | sxReset =>
      obtain rfl := Except.ok.inj ho
      exact h.sxReset
    | portOpen =>
      obtain rfl := Except.ok.inj ho
      exact h.portOpen
    | portClose =>
      obtain rfl := Except.ok.inj ho
      exact h.portClose
    | reset =>
      obtain rfl := Except.ok.inj ho
      exact h.resetBlock

theorem exec_decode {cmd : Command} (h : StateInv s) (he : exec (decode cmd) s = .next t) : StateInv t := by
  by_cases hr : decode cmd = .reset
  · rw [hr] at he
    obtain rfl := Host.Outcome.next.inj he
    exact h.resetBlock
  · have hd := h.delivered (decode cmd)
    rcases exec_next_cases he hr with ⟨_, -, rfl⟩ | ⟨_, -, -, rfl⟩ | ⟨u, hf, ho, rfl⟩
    · exact hd.withOutcome _
    · exact hd.withOutcome _
    · refine (hd.opOf_decode ((delivered_fault _ s).trans hf) (fun hh hq => ?_) ho).withOutcome _
      rw [hh] at hq
      exact not_stops_of_next he ⟨hf, .inl ⟨hh, hq⟩⟩

end StateInv

/-- Settles O58: taking the command from the inbox keeps the invariant, and so does running it. -/
theorem stepKeepsStateInv : Obligations.StepKeepsStateInv := by
  intro s t h hs
  obtain rfl | ⟨cmd, rest, -, he⟩ := step_next_cases hs
  · exact h
  · exact (h.withInbox rest).exec_decode he

/-! ### Started sessions (44_sysex.md R222) -/

/-- A session with a buffer holds at least one byte. -/
def Session.Started (x : Session) : Prop := x.buf.isSome → 1 ≤ x.pos

theorem Session.empty_started : Session.empty.Started := fun h => nomatch h

/-- What a state's session holds when its session file is another's with that session set. -/
theorem State.session_of_sx_eq {t : State} (s : State) {c : Cable} {v : Session}
    (h : t.sx = (s.setSession c v).sx) : t.session c = v :=
  (State.session_congr h c).trans (State.session_setSession_self s c v)

/-- An unusable answer leaves the session empty (44_sysex.md R227). -/
theorem sxBufreq_fault_session {c : Cable} {need : Nat} {s : State} (hf : s.fault = none)
    (hc : s.nextAnswer.cap < need) : (sxBufreq c need s).session c = Session.empty := by
  rw [sxBufreq_fault hf hc]
  exact State.session_of_sx_eq s.dropAnswer rfl

/-- An append stores three bytes, or faults with the session emptied. -/
theorem sxAppend_started {s : State} (hf : s.fault = none) (c : Cable) (b1 b2 b3 : Byte) :
    ((sxAppend c b1 b2 b3 s).session c).Started := by
  by_cases hn : (s.session c).buf = none ∨ (s.session c).capLeft < 3
  · by_cases hc : s.nextAnswer.cap < 3
    · rw [sxAppend_fault hf hn hc, sxBufreq_fault_session hf hc]
      exact Session.empty_started
    · have hs : (sxAppend c b1 b2 b3 s).session c = ⟨some s.nextAnswer.buf, 3, s.nextAnswer.cap - 3⟩ := by
        rw [sxAppend_request hf hn (Nat.le_of_not_lt hc)]
        exact State.session_of_sx_eq s.dropAnswer rfl
      rw [hs]
      exact fun _ => Nat.le_add_left 1 2
  · obtain ⟨hb, hr⟩ := not_or.mp hn
    obtain ⟨a, ha⟩ := Option.ne_none_iff_exists'.mp hb
    have hs : (sxAppend c b1 b2 b3 s).session c =
        ⟨some a, (s.session c).pos + 3, (s.session c).capLeft - 3⟩ := by
      rw [sxAppend_room hf ha (Nat.le_of_not_lt hr), sxStore_some ha]
      exact State.session_of_sx_eq s rfl
    rw [hs]
    exact fun _ => Nat.le_add_left 1 _

/-- A termination empties its session or leaves it as it was (44_sysex.md R223, R224). -/
theorem sxTerm_session {s : State} (hf : s.fault = none) (c : Cable) (bs : List Byte) :
    (sxTerm c bs s).session c = Session.empty ∨ (sxTerm c bs s).session c = s.session c := by
  by_cases hn : (s.session c).buf = none ∨ (s.session c).capLeft < bs.length
  · cases hp : s.cfg.termPolicy with
    | fault => rw [sxTerm_policy_fault hf hp hn]; exact .inr rfl
    | request =>
      rw [sxTerm_policy_request hp hn]
      by_cases hc : s.nextAnswer.cap < bs.length
      · rw [if_pos (by rw [sxBufreq_fault hf hc]; rfl)]
        exact .inl (sxBufreq_fault_session hf hc)
      · have hok : bs.length ≤ s.nextAnswer.cap := Nat.le_of_not_lt hc
        rw [if_neg (by rw [sxBufreq_ok hok]; simp [hf]), sxDeliver_sxStore_sxBufreq hok]
        exact .inl (State.session_of_sx_eq s.dropAnswer rfl)
  · obtain ⟨hb, hr⟩ := not_or.mp hn
    obtain ⟨a, ha⟩ := Option.ne_none_iff_exists'.mp hb
    rw [sxTerm_room hf ha (Nat.le_of_not_lt hr), sxDeliver_sxStore ha]
    exact .inl (State.session_of_sx_eq s rfl)

theorem sxTerm_started {s : State} (hf : s.fault = none) {c : Cable} (bs : List Byte)
    (hc : (s.session c).Started) : ((sxTerm c bs s).session c).Started := by
  obtain h | h := sxTerm_session hf c bs <;> rw [h]
  · exact Session.empty_started
  · exact hc

theorem packetEffect_started {s : State} (hf : s.fault = none) (hs : ∀ c, (s.session c).Started) (p : Packet)
    (c : Cable) : ((packetEffect p s).session c).Started := by
  by_cases hc : c = p.cable
  · subst hc
    unfold packetEffect
    cases rxRow p.cin p.p1 with
    | cin4 => exact sxAppend_started hf _ _ _ _
    | cin5Term | cin6 | cin7 => exact sxTerm_started hf _ (hs _)
    | _ => exact hs _
  · rw [(packetEffect_frame p s).session c hc]
    exact hs c

theorem decodeFrom_started (f : RxIdx) (k off : Nat) {s : State} (hf : s.fault = none)
    (hs : ∀ c, (s.session c).Started) (c : Cable) : ((decodeFrom f k off s).session c).Started := by
  induction k generalizing off s with
  | zero => exact hs c
  | succ k ih =>
    have h1 := packetEffect_started hf hs (s.rxPacket f off)
    simp only [decodeFrom]
    split
    · exact h1 c
    · next hn => exact ih _ (by simpa using hn) h1

/-! ### The run invariant, operation by operation (10_state.md R37) -/

namespace RunInv

variable {s t u : State}

/-- A closed port with nothing pending. -/
theorem of_closed (hb : StateInv t) (ho : t.isOpen = false) (hs : t.sending = false) (hq : t.txq = [])
    (hx : t.sx = Vector.replicate 16 Session.empty) (ha : ∀ c ∈ t.inbox, agentCommand c = true) : RunInv t :=
  have he := State.session_of_replicate hx
  { base := hb
    closed := fun _ => ⟨hs, hq, he⟩
    in_flight := fun h => absurd (ho.symm.trans h) (by decide)
    started := fun c => by rw [he]; exact Session.empty_started
    agents := ha }

/-- An open port with sessions and inbox untouched, and nothing in flight while `sending` is clear. -/
theorem of_open (h : RunInv s) (hb : StateInv t) (ho : t.isOpen = true)
    (hf : t.sending = false → t.txInflight = none) (hx : t.sx = s.sx) (hi : t.inbox = s.inbox) : RunInv t :=
  { base := hb
    closed := fun hc => absurd (ho.symm.trans hc) (by decide)
    in_flight := fun _ => hf
    started := fun c => by rw [State.session_congr hx]; exact h.started c
    agents := hi ▸ h.agents }

theorem tail {cmd : Command} {rest : List Command} (h : RunInv s) (hi : s.inbox = cmd :: rest) :
    RunInv { s with inbox := rest } :=
  { h with
    base := h.base.withInbox rest
    agents := fun c hc => h.agents c (hi ▸ List.mem_cons_of_mem cmd hc) }

theorem withOutcome (h : RunInv s) (o : OpOutcome) : RunInv { s with outcome := o } :=
  { h with base := h.base.withOutcome o }

theorem latch (h : RunInv s) (x : FaultCause) : RunInv (s.latch x) := { h with base := h.base.latch x }

theorem emit (h : RunInv s) {e : Event} (he : Event.submitOk s.cfg e) : RunInv (s.emit e) :=
  { h with base := h.base.emit he }

theorem delivered (h : RunInv s) (i : Instr) : RunInv (delivered i s) := by
  cases i with
  | txComplete => exact { h with base := h.base.withInflight none, in_flight := fun _ _ => rfl }
  | rxComplete => exact { h with base := h.base.rxNotified }
  | _ => exact h

theorem submitted {f : List Byte} (h : RunInv s) (hb : StateInv (submitted f s)) (ho : s.isOpen = true) :
    RunInv (submitted f s) := by
  have hfr := submitted_frame f s
  have hs : (Machine.submitted f s).sending = true := by
    rw [submitted_eq]
    split <;> rfl
  exact h.of_open hb ((congrArg State.isOpen hfr).trans ho) (fun hn => absurd (hs.symm.trans hn) (by decide))
    ((congrArg State.sx hfr).trans rfl) ((congrArg State.inbox hfr).trans rfl)

theorem producer {i : Instr} (h : RunInv s) (hi : agentsOf i = [.producer]) (ho : opOf i s = .ok u) :
    RunInv u := by
  obtain ⟨hop, f, hm, hsub⟩ := opOf_producer_ok hi ho
  obtain ⟨-, rfl⟩ | ⟨hf, hfit, rfl⟩ := submit_ok hsub
  · exact h
  · exact h.submitted (h.base.submitted hf hm hfit) hop

/-- Once the notification has been taken nothing is in flight, so `sending` may be cleared. -/
theorem txComplete {st : XferStatus} (h : RunInv s) (hn : s.txInflight = none)
    (ho : txComplete st s = .ok u) : RunInv u := by
  obtain rfl | ⟨hop, -, v, hv, rfl⟩ := txComplete_ok ho
  · exact h
  · have hi : RunInv v := by
      obtain ⟨hq, rfl⟩ | ⟨hq, rfl⟩ := hv
      · exact h.of_open (h.base.setSending_false hq) hop (fun _ => hn) rfl rfl
      · exact h.of_open (h.base.handover hq) hop (fun hs => absurd (h.base.queue_idle hs) hq) rfl rfl
    split
    · exact hi.emit trivial
    · exact hi

/-- Decoding on an open port keeps the clauses outside its frame. -/
theorem of_decodeFrame {P : Cable → Prop} (h : RunInv s) (hb : StateInv t) (k : DecodeFrame P s t)
    (ho : s.isOpen = true) (hst : ∀ c, (t.session c).Started) : RunInv t :=
  { base := hb
    closed := fun hc => absurd (ho.symm.trans (k.isOpen.symm.trans hc)) (by decide)
    in_flight := by rw [k.isOpen, k.sending, k.txInflight]; exact h.in_flight
    started := hst
    agents := k.inbox ▸ h.agents }

theorem decodeChunk (h : RunInv s) (hf : s.fault = none) (ho : s.isOpen = true) (f : RxIdx) (len : Nat) :
    RunInv (decodeChunk f len s) :=
  h.of_decodeFrame (h.base.decodeChunk hf f len) (decodeChunk_frame f len s) ho
    (decodeFrom_started f (len / 4) 0 hf h.started)

theorem writeRx (h : RunInv s) (f : RxIdx) {data : List Byte} (hl : data.length ≤ s.cfg.rxBufSize) :
    RunInv (s.writeRx f data) := by
  have hb := h.base.writeRx f hl
  cases f <;> exact { h with base := hb }

theorem activate (h : RunInv s) (f : RxIdx) : RunInv ((s.setRxActive f).armIn f) :=
  { h with base := h.base.activate f }

theorem rxComplete {st : XferStatus} {data : List Byte} (h : RunInv s) (hf : s.fault = none)
    (ho : rxComplete st data s = .ok u) : RunInv u := by
  obtain rfl | ⟨hop, -, ⟨-, rfl⟩ | ⟨-, hl, rfl⟩⟩ := rxComplete_ok ho
  · exact h
  · exact h.latch _
  · exact ((h.writeRx s.rxActive hl).activate (otherIdx s.rxActive)).decodeChunk
      ((State.writeRx_fault s _ _).trans hf) ((State.writeRx_isOpen s _ _).trans hop) _ _

/-- The port opens with nothing in flight. -/
theorem portOpen (h : RunInv s) : RunInv (portOpen s) := by
  have hb := h.base.portOpen
  unfold Machine.portOpen at hb ⊢
  split
  · exact h
  · next hc => exact h.of_open (by rwa [if_neg hc] at hb) rfl (fun _ => rfl) rfl rfl

theorem portClose (h : RunInv s) : RunInv (portClose s) := by
  have hb := h.base.portClose
  unfold Machine.portClose at hb ⊢
  split
  · next ho => exact of_closed (by rwa [if_pos ho] at hb) rfl rfl rfl rfl h.agents
  · exact h

theorem resetBlock (h : RunInv s) : RunInv (resetBlock s) :=
  of_closed h.base.resetBlock rfl rfl rfl rfl h.agents

/-- The operations an agent invokes, after the notification they carry has been delivered. -/
theorem opOf_agent {i : Instr} (h : RunInv s) (hf : s.fault = none) (hi : agentOp i = true)
    (hn : ∀ st, i = .txComplete st → s.txInflight = none) (ho : opOf i s = .ok u) : RunInv u := by
  cases i with
  | write c m => exact h.producer (i := .write c m) rfl ho
  | sysexWrite c bytes => exact h.producer (i := .sysexWrite c bytes) rfl ho
  | sendRaw c framed => exact h.producer (i := .sendRaw c framed) rfl ho
  | txComplete st => exact h.txComplete (hn st rfl) ho
  | rxComplete st data => exact h.rxComplete hf ho
  | portOpen =>
    obtain rfl := Except.ok.inj ho
    exact h.portOpen
  | portClose =>
    obtain rfl := Except.ok.inj ho
    exact h.portClose
  | reset =>
    obtain rfl := Except.ok.inj ho
    exact h.resetBlock
  | _ => simp [agentOp, agentsOf] at hi

theorem exec_agent {i : Instr} (h : RunInv s) (hi : agentOp i = true) (he : exec i s = .next t) :
    RunInv t := by
  by_cases hr : i = .reset
  · subst hr
    obtain rfl := Host.Outcome.next.inj he
    exact h.resetBlock
  · have hd := h.delivered i
    rcases exec_next_cases he hr with ⟨_, -, rfl⟩ | ⟨_, -, -, rfl⟩ | ⟨u, hf, ho, rfl⟩
    · exact hd.withOutcome _
    · exact hd.withOutcome _
    · refine (hd.opOf_agent ((delivered_fault i s).trans hf) hi (fun st hst => ?_) ho).withOutcome _
      subst hst
      rfl

end RunInv

/-- Settles O57: nothing is queued, in flight, lent or waiting. -/
theorem resetMeetsInvariants : Obligations.ResetMeetsInvariants :=
  .of_closed reset_stateInv rfl rfl rfl rfl fun _ hc => absurd hc List.not_mem_nil

/-- Settles O59: the command taken is an agent's, and each of the agents' operations keeps the invariant. -/
theorem stepKeepsRunInv : Obligations.StepKeepsRunInv := by
  intro s t h hs
  obtain rfl | ⟨cmd, rest, hi, he⟩ := step_next_cases hs
  · exact h
  · exact (h.tail hi).exec_agent (h.agents cmd (hi ▸ List.mem_cons_self)) he

end Sys2Proof.Machine
end

section
/-! PROOFS of the family 20_memory.md (O42, O43, O44, O3, O9): the bytes an instruction stores in SX, the lent
buffers they stay in, one step, and the nibbles of a header byte. -/

namespace Sys2Proof.Machine

/-! ### One append or termination, seen from SX (44_sysex.md R221 to R227) -/

/-- A session lends the addresses from its buffer up to its capacity. -/
theorem Session.lends_some {a pos capLeft x : Nat} :
    Session.lends ⟨some a, pos, capLeft⟩ x ↔ a ≤ x ∧ x < a + pos + capLeft := by
  simp [Session.lends]

@[simp] theorem Session.not_lends_empty (x : Nat) : ¬ Session.empty.lends x := by
  simp [Session.lends, Session.empty]

theorem storeAddr_room {c : Cable} {n a : Nat} {s : State} (hb : (s.session c).buf = some a)
    (hr : n ≤ (s.session c).capLeft) : storeAddr c n s = a + (s.session c).pos := by
  simp [storeAddr, hb, Nat.not_lt.mpr hr]

theorem storeAddr_request {c : Cable} {n : Nat} {s : State}
    (hn : (s.session c).buf = none ∨ (s.session c).capLeft < n) : storeAddr c n s = s.nextAnswer.buf := by
  unfold storeAddr
  obtain hb | hl := hn
  · simp [hb]
  · cases hbuf : (s.session c).buf <;> simp [hbuf, hl]

/-- To show something of what cable `c` is lent, show it of the session last written there. -/
theorem lent_of_sx_eq {u : State} (s : State) {c : Cable} {v : Session} {P : Nat → Prop}
    (hu : u.sx = (s.setSession c v).sx) (h : ∀ x, v.lends x → P x) : ∀ x, (u.session c).lends x → P x := by
  rw [State.session_of_sx_eq s hu]
  exact h

/-- Anything holds of what an empty session lends. -/
theorem lent_of_empty {v : Session} {P : Nat → Prop} (hv : v = Session.empty) : ∀ x, v.lends x → P x :=
  fun x hx => absurd (hv ▸ hx) (Session.not_lends_empty x)

/-- An address in the buffer the consumer answers the next request with. -/
def State.answersAt (s : State) (x : Nat) : Prop :=
  s.nextAnswer.buf ≤ x ∧ x < s.nextAnswer.buf + s.nextAnswer.cap

/-- What storing `bs` for cable `c` does to SX and to what that cable is lent: a fault with nothing stored, or
the bytes go behind those in the buffer, or to the start of a buffer answered on request. -/
inductive SxStep (c : Cable) (bs : List Byte) (s u : State) : Prop
  | fault (mem : u.sxmem = s.sxmem) (latched : u.fault.isSome)
      (lent : ∀ x, (u.session c).lends x → (s.session c).lends x)
  | room (a : Nat) (held : (s.session c).buf = some a) (fits : bs.length ≤ (s.session c).capLeft)
      (mem : u.sxmem = s.sxmem.store (a + (s.session c).pos) (s.landing c (a + (s.session c).pos) bs))
      (lent : ∀ x, (u.session c).lends x → (s.session c).lends x)
  | request (asks : (s.session c).buf = none ∨ (s.session c).capLeft < bs.length)
      (fits : bs.length ≤ s.nextAnswer.cap)
      (mem : u.sxmem = s.sxmem.store s.nextAnswer.buf (s.dropAnswer.landing c s.nextAnswer.buf bs))
      (asked : ∃ prev ev, u.trace = s.trace ++ .bufReq c prev s.nextAnswer :: ev)
      (lent : ∀ x, (u.session c).lends x → s.answersAt x)

/-- A request answered too small stores nothing and leaves the session empty. -/
theorem sxBufreq_sxStep_fault {c : Cable} {bs : List Byte} {need : Nat} {s : State} (hf : s.fault = none)
    (hc : s.nextAnswer.cap < need) : SxStep c bs s (sxBufreq c need s) :=
  .fault (by simp [sxBufreq_fault hf hc]) (by simp [sxBufreq_fault hf hc])
    (lent_of_empty (sxBufreq_fault_session hf hc))

theorem sxAppend_sxStep {s : State} (hf : s.fault = none) (c : Cable) (b1 b2 b3 : Byte) :
    SxStep c [b1, b2, b3] s (sxAppend c b1 b2 b3 s) := by
  by_cases hn : (s.session c).buf = none ∨ (s.session c).capLeft < 3
  · by_cases hc : s.nextAnswer.cap < 3
    · rw [sxAppend_fault hf hn hc]
      exact sxBufreq_sxStep_fault hf hc
    · have hok : 3 ≤ s.nextAnswer.cap := Nat.le_of_not_lt hc
      rw [sxAppend_request hf hn hok]
      refine .request hn hok rfl ⟨_, [], rfl⟩ (lent_of_sx_eq s.dropAnswer rfl fun x hx => ?_)
      obtain ⟨hlo, hhi⟩ := Session.lends_some.mp hx
      exact ⟨hlo, by omega⟩
  · obtain ⟨hb, hr⟩ := not_or.mp hn
    obtain ⟨a, ha⟩ := Option.ne_none_iff_exists'.mp hb
    have hfit : 3 ≤ (s.session c).capLeft := Nat.le_of_not_lt hr
    rw [sxAppend_room hf ha hfit, sxStore_some ha]
    refine .room a ha hfit rfl (lent_of_sx_eq s rfl fun x hx => ?_)
    obtain ⟨hlo, hhi⟩ := Session.lends_some.mp hx
    exact ⟨a, ha, hlo, by simp only [List.length_cons, List.length_nil] at hhi; omega⟩

theorem sxTerm_sxStep {s : State} (hf : s.fault = none) (c : Cable) (bs : List Byte) :
    SxStep c bs s (sxTerm c bs s) := by
  by_cases hn : (s.session c).buf = none ∨ (s.session c).capLeft < bs.length
  · cases hp : s.cfg.termPolicy with
    | fault =>
      rw [sxTerm_policy_fault hf hp hn]
      exact .fault rfl rfl fun _ hx => hx
    | request =>
      rw [sxTerm_policy_request hp hn]
      by_cases hc : s.nextAnswer.cap < bs.length
      · rw [if_pos (by rw [sxBufreq_fault hf hc]; rfl)]
        exact sxBufreq_sxStep_fault hf hc
      · have hok : bs.length ≤ s.nextAnswer.cap := Nat.le_of_not_lt hc
        rw [if_neg (by rw [sxBufreq_ok hok]; simp [hf]), sxDeliver_sxStore_sxBufreq hok]
        exact .request hn hok rfl ⟨_, [_], rfl⟩ (lent_of_sx_eq s.dropAnswer rfl (lent_of_empty rfl))
  · obtain ⟨hb, hr⟩ := not_or.mp hn
    obtain ⟨a, ha⟩ := Option.ne_none_iff_exists'.mp hb
    have hfit : bs.length ≤ (s.session c).capLeft := Nat.le_of_not_lt hr
    rw [sxTerm_room hf ha hfit, sxDeliver_sxStore ha]
    exact .room a ha hfit rfl (lent_of_sx_eq s rfl (lent_of_empty rfl))

namespace SxStep

variable {c : Cable} {bs : List Byte} {s u : State}

/-- Without a fault the bytes stand at the address the state names. -/
theorem stored (h : SxStep c bs s u) (hf : u.fault = none) :
    ∃ vs, StoredAs s c (storeAddr c bs.length s) bs vs ∧
      u.sxmem = s.sxmem.store (storeAddr c bs.length s) vs := by
  cases h with
  | fault mem latched => simp [hf] at latched
  | room a held fits mem =>
    rw [storeAddr_room held fits]
    exact ⟨_, s.landing_storedAs c _ bs, mem⟩
  | request asks fits mem =>
    rw [storeAddr_request asks]
    exact ⟨_, (s.dropAnswer.landing_storedAs c _ bs).congr s.session_dropAnswer, mem⟩

/-- Only the bytes stored change (20_memory.md R55). -/
theorem read_outside (h : SxStep c bs s u) {x : Nat}
    (hx : x < storeAddr c bs.length s ∨ storeAddr c bs.length s + bs.length ≤ x) :
    Memory.read u.sxmem x = Memory.read s.sxmem x := by
  cases h with
  | fault mem => rw [mem]
  | room a held fits mem =>
    rw [storeAddr_room held fits] at hx
    rw [mem, Memory.read_store_outside _ _ _ _ (by rwa [State.landing_length])]
  | request asks fits mem =>
    rw [storeAddr_request asks] at hx
    rw [mem, Memory.read_store_outside _ _ _ _ (by rwa [State.landing_length])]

/-- A byte that changed is one of those stored. -/
theorem mem_stored_of_changed (h : SxStep c bs s u) {x : Nat}
    (hx : Memory.read u.sxmem x ≠ Memory.read s.sxmem x) :
    storeAddr c bs.length s ≤ x ∧ x < storeAddr c bs.length s + bs.length := by
  refine Classical.byContradiction fun hn => hx (h.read_outside ?_)
  omega

/-- A byte that changed, or that the cable is lent afterwards, lies in the buffer it held, or in the one the
consumer answered its request with (20_memory.md R58). -/
theorem held_or_answered (h : SxStep c bs s u) {x : Nat}
    (hx : Memory.read u.sxmem x ≠ Memory.read s.sxmem x ∨ (u.session c).lends x) :
    (s.session c).lends x ∨
      s.answersAt x ∧ ∃ prev ev, u.trace = s.trace ++ .bufReq c prev s.nextAnswer :: ev := by
  have hrange := fun hm => h.mem_stored_of_changed (x := x) hm
  cases h with
  | fault mem _ lent => exact .inl (hx.elim (absurd (by rw [mem])) (lent x))
  | room a held fits _ lent =>
    refine .inl (hx.elim (fun hm => ?_) (lent x))
    obtain ⟨hlo, hhi⟩ := hrange hm
    rw [storeAddr_room held fits] at hlo hhi
    exact ⟨a, held, by omega, by omega⟩
  | request asks fits _ asked lent =>
    refine .inr ⟨hx.elim (fun hm => ?_) (lent x), asked⟩
    obtain ⟨hlo, hhi⟩ := hrange hm
    rw [storeAddr_request asks] at hlo hhi
    exact ⟨hlo, by omega⟩

end SxStep

/-- An instruction that stores bytes of its own carries no notification and is no `RESET`. -/
theorem delivered_of_storedBytes {i : Instr} {c : Cable} {bs : List Byte} (hb : storedBytes i = some (c, bs))
    (s : State) : i ≠ .reset ∧ delivered i s = s := by
  cases i with
  | txComplete | rxComplete | reset => cases hb
  | _ => exact ⟨nofun, rfl⟩

/-- It is one append or one termination. -/
theorem opOf_storedBytes {i : Instr} {c : Cable} {bs : List Byte} {s u : State} (hf : s.fault = none)
    (hb : storedBytes i = some (c, bs)) (ho : opOf i s = .ok u) :
    SxStep c bs s u ∧ DecodeFrame (· = c) s u := by
  cases i with
  | rxCin4 c b1 b2 b3 | sxAppend c b1 b2 b3 =>
    cases hb
    obtain rfl := Except.ok.inj ho
    exact ⟨sxAppend_sxStep hf c b1 b2 b3, sxAppend_frame c b1 b2 b3 s⟩
  | rxCin5Term c | rxCin6 c | rxCin7 c | sxTerm c =>
    cases hb
    obtain rfl := Except.ok.inj ho
    exact ⟨sxTerm_sxStep hf c _, sxTerm_frame c _ s⟩
  | _ => cases hb

/-- Refused or in error it changes the outcome alone, else it is that append or termination. -/
theorem exec_storedBytes {i : Instr} {c : Cable} {bs : List Byte} {s t : State}
    (hb : storedBytes i = some (c, bs)) (h : exec i s = .next t) :
    (∃ o, o ≠ .ok ∧ t = { s with outcome := o }) ∨
    (∃ u, SxStep c bs s u ∧ DecodeFrame (· = c) s u ∧ t = { u with outcome := u.endOutcome }) := by
  obtain ⟨hr, hd⟩ := delivered_of_storedBytes hb s
  rcases exec_next_cases h hr with ⟨_, -, ht⟩ | ⟨_, -, -, ht⟩ | ⟨u, hf, ho, ht⟩
  · exact .inl ⟨.fault _, nofun, hd ▸ ht⟩
  · exact .inl ⟨.err _, nofun, hd ▸ ht⟩
  · rw [hd] at ho
    obtain ⟨hstep, hframe⟩ := opOf_storedBytes hf hb ho
    exact .inr ⟨u, hstep, hframe, ht⟩

/-! ### The instructions that store nothing (20_memory.md R50) -/

theorem sxBufreq_sxmem (c : Cable) (need : Nat) (s : State) : (sxBufreq c need s).sxmem = s.sxmem := by
  unfold sxBufreq
  dsimp only
  split <;> simp

theorem submit_sxmem {f : List Byte} {s u : State} (h : submit f s = .ok u) : u.sxmem = s.sxmem := by
  obtain ⟨-, rfl⟩ | ⟨-, -, rfl⟩ := submit_ok h
  · rfl
  · exact (congrArg State.sxmem (submitted_frame f s)).trans rfl

theorem producer_sxmem {i : Instr} {s u : State} (hi : agentsOf i = [.producer]) (ho : opOf i s = .ok u) :
    u.sxmem = s.sxmem := by
  obtain ⟨-, f, -, hsub⟩ := opOf_producer_ok hi ho
  exact submit_sxmem hsub

theorem txComplete_sxmem {st : XferStatus} {s u : State} (h : txComplete st s = .ok u) :
    u.sxmem = s.sxmem := by
  obtain rfl | ⟨-, -, t, ht, rfl⟩ := txComplete_ok h
  · rfl
  · have hst : t.sxmem = s.sxmem := by obtain ⟨-, rfl⟩ | ⟨-, rfl⟩ := ht <;> rfl
    split <;> exact hst

theorem portOpen_sxmem (s : State) : (portOpen s).sxmem = s.sxmem := by
  unfold portOpen
  split <;> rfl

theorem portClose_sxmem (s : State) : (portClose s).sxmem = s.sxmem := by
  unfold portClose
  split <;> rfl

theorem opOf_sxmem {i : Instr} {s u : State} (hb : storedBytes i = none)
    (hc : ∀ f len, i ≠ .decodeChunk f len) (hx : ∀ st d, i ≠ .rxComplete st d) (ho : opOf i s = .ok u) :
    u.sxmem = s.sxmem := by
  cases i with
  | rxCin0 | rxCin1 | rxCin2 | rxCin3 | rxCin5F6 | rxCin8 | rxCin9 | rxCinA | rxCinB | rxCinC | rxCinD
  | rxCinE | rxCinF | encSysexCont | encSysexEnd1 | encSysexEnd2 | encSysexEnd3 | encSysex | handover
  | sxReset | reset =>
    obtain rfl := Except.ok.inj ho
    rfl
  | rxCin4 | sxAppend | rxCin5Term | rxCin6 | rxCin7 | sxTerm => cases hb
  | encShortPc | encShortSpp | encShortSc1 | encShortDefault =>
    obtain rfl := classRow_ok ho
    rfl
  | encShort =>
    obtain ⟨_, rfl⟩ := encShort_map_ok ho
    rfl
  | write c m => exact producer_sxmem (i := .write c m) rfl ho
  | sysexWrite c bytes => exact producer_sxmem (i := .sysexWrite c bytes) rfl ho
  | sendRaw c framed => exact producer_sxmem (i := .sendRaw c framed) rfl ho
  | submit => exact submit_sxmem ho
  | txComplete => exact txComplete_sxmem ho
  | rxComplete st d => exact absurd rfl (hx st d)
  | decodeChunk f len => exact absurd rfl (hc f len)
  | sxBufreq c need =>
    obtain rfl := Except.ok.inj ho
    exact sxBufreq_sxmem c need s
  | portOpen =>
    obtain rfl := Except.ok.inj ho
    exact portOpen_sxmem s
  | portClose =>
    obtain rfl := Except.ok.inj ho
    exact portClose_sxmem s

theorem delivered_sxmem (i : Instr) (s : State) : (delivered i s).sxmem = s.sxmem := by
  cases i <;> rfl

theorem exec_sxmem {i : Instr} {s t : State} (hb : storedBytes i = none)
    (hc : ∀ f len, i ≠ .decodeChunk f len) (hx : ∀ st d, i ≠ .rxComplete st d) (h : exec i s = .next t) :
    t.sxmem = s.sxmem := by
  by_cases hr : i = .reset
  · subst hr
    obtain rfl := Host.Outcome.next.inj ((exec_reset s).symm.trans h)
    rfl
  · have hd := delivered_sxmem i s
    rcases exec_next_cases h hr with ⟨_, -, rfl⟩ | ⟨_, -, -, rfl⟩ | ⟨u, -, ho, rfl⟩
    · exact hd
    · exact hd
    · exact (opOf_sxmem hb hc hx ho).trans hd

theorem State.fault_none_of_endOutcome_ok {s : State} (h : s.endOutcome = .ok) : s.fault = none := by
  obtain hf | ⟨cause, hf⟩ := Option.eq_none_or_eq_some s.fault
  · exact hf
  · exact absurd ((State.endOutcome_some hf).symm.trans h) nofun

/-- Settles O42: an append or a termination is one `SxStep`, which changes no byte outside those it stores, and
the others leave SX as it was. -/
theorem sysexStoresOnlyItsBytes : Obligations.SysexStoresOnlyItsBytes := by
  refine fun i s t h => ⟨fun c bs hb x hx => ?_, fun hb hc hr x => by rw [exec_sxmem hb hc hr h]⟩
  obtain ⟨_, -, rfl⟩ | ⟨u, hu, -, rfl⟩ := exec_storedBytes hb h
  · rfl
  · exact hu.read_outside hx

/-- Settles O43: the outcome is Ok, so no fault was latched, and a store's bytes read back. -/
theorem sysexBytesReadBack : Obligations.SysexBytesReadBack := by
  intro i s t c bs _ h hb hok
  obtain ⟨_, ho, rfl⟩ | ⟨u, hu, -, rfl⟩ := exec_storedBytes hb h
  · exact absurd hok ho
  · obtain ⟨vs, hvs, hm⟩ := hu.stored (State.fault_none_of_endOutcome_ok hok)
    have hlen : vs.length = bs.length := hvs.1
    have hread := Memory.readBytes_store s.sxmem (storeAddr c bs.length s) vs
    rw [← hm, hlen] at hread
    exact ⟨vs, hvs, hread⟩

/-! ### The lent buffers, over a chunk (20_memory.md R58) -/

/-- An address in a buffer a session of `s` holds, or in one the consumer answered in an event of `ev`. -/
def LentOrAnswered (s : State) (ev : List Event) (x : Nat) : Prop :=
  (∃ c, (s.session c).lends x) ∨
    ∃ c prev ans, Event.bufReq c prev ans ∈ ev ∧ ans.buf ≤ x ∧ x < ans.buf + ans.cap

/-- What decoding can do to SX and to the lent ranges while it adds `ev` to the trace: a byte that changes, and
an address lent afterwards, was lent before or answered in `ev`. -/
structure LentFrame (s t : State) (ev : List Event) : Prop where
  trace : t.trace = s.trace ++ ev
  changed : ∀ x, Memory.read t.sxmem x ≠ Memory.read s.sxmem x → LentOrAnswered s ev x
  lent : ∀ c x, (t.session c).lends x → LentOrAnswered s ev x

namespace LentFrame

variable {s t u : State} {ev ev' : List Event}

/-- Sessions and SX untouched. -/
theorem of_eq (hx : t.sx = s.sx) (hm : t.sxmem = s.sxmem) (ht : t.trace = s.trace ++ ev) :
    LentFrame s t ev :=
  ⟨ht, fun x h => absurd (by rw [hm]) h, fun c x h => .inl ⟨c, State.session_congr hx c ▸ h⟩⟩

theorem trans (h : LentFrame s t ev) (k : LentFrame t u ev') : LentFrame s u (ev ++ ev') := by
  have hmono {x : Nat} (hx : LentOrAnswered s ev x) : LentOrAnswered s (ev ++ ev') x :=
    hx.imp_right fun ⟨c, prev, ans, hm, hr⟩ => ⟨c, prev, ans, List.mem_append_left ev' hm, hr⟩
  have hback {x : Nat} (hx : LentOrAnswered t ev' x) : LentOrAnswered s (ev ++ ev') x := by
    obtain ⟨c, hc⟩ | ⟨c, prev, ans, hm, hr⟩ := hx
    · exact hmono (h.lent c x hc)
    · exact .inr ⟨c, prev, ans, List.mem_append_right ev hm, hr⟩
  refine ⟨by rw [k.trace, h.trace, List.append_assoc], fun x hx => ?_, fun c x hx => hback (k.lent c x hx)⟩
  by_cases ht : Memory.read t.sxmem x = Memory.read s.sxmem x
  · exact hback (k.changed x (ht ▸ hx))
  · exact hmono (h.changed x ht)

end LentFrame

/-- One append or termination: its own cable's sessions and bytes by `SxStep`, the others by its frame. -/
theorem SxStep.lentFrame {c : Cable} {bs : List Byte} {s u : State} (h : SxStep c bs s u)
    (k : DecodeFrame (· = c) s u) : ∃ ev, LentFrame s u ev := by
  obtain ⟨ev, he, -⟩ := k.trace
  have hback {x : Nat} (hx : Memory.read u.sxmem x ≠ Memory.read s.sxmem x ∨ (u.session c).lends x) :
      LentOrAnswered s ev x := by
    obtain hl | ⟨ha, prev, _, he'⟩ := h.held_or_answered hx
    · exact .inl ⟨c, hl⟩
    · obtain rfl := List.append_cancel_left (he.symm.trans he')
      exact .inr ⟨c, prev, _, List.mem_cons_self, ha⟩
  refine ⟨ev, he, fun x hx => hback (.inl hx), fun d x hx => ?_⟩
  by_cases hd : d = c
  · subst hd
    exact hback (.inr hx)
  · exact .inl ⟨d, k.session d hd ▸ hx⟩

theorem packetEffect_lentFrame {s : State} (hf : s.fault = none) (p : Packet) :
    ∃ ev, LentFrame s (packetEffect p s) ev := by
  unfold packetEffect
  cases rxRow p.cin p.p1 with
  | cin4 => exact (sxAppend_sxStep hf _ _ _ _).lentFrame (sxAppend_frame _ _ _ _ s)
  | cin5Term | cin6 | cin7 => exact (sxTerm_sxStep hf _ _).lentFrame (sxTerm_frame _ _ s)
  | _ => exact ⟨_, .of_eq rfl rfl rfl⟩

theorem decodeFrom_lentFrame {s : State} (hf : s.fault = none) (f : RxIdx) (k off : Nat) :
    ∃ ev, LentFrame s (decodeFrom f k off s) ev := by
  induction k generalizing off s with
  | zero => exact ⟨[], .of_eq rfl rfl (List.append_nil _).symm⟩
  | succ k ih =>
    obtain ⟨ev, h⟩ := packetEffect_lentFrame hf (s.rxPacket f off)
    simp only [decodeFrom]
    split
    · exact ⟨ev, h⟩
    · next hn =>
      obtain ⟨_, h'⟩ := ih (by simpa using hn) (off + 4)
      exact ⟨_, h.trans h'⟩

/-- The chunk is decoded after the buffer has been filled, swapped and armed, which leaves SX and the sessions
as they were (42_rxhandoff.md R160). -/
theorem rxAccept_lentFrame {s : State} (hf : s.fault = none) (data : List Byte) :
    ∃ ev, LentFrame s (rxAccept data s) ev := by
  have harm : LentFrame s
      (((s.writeRx s.rxActive data).setRxActive (otherIdx s.rxActive)).armIn (otherIdx s.rxActive))
      [.armIn (otherIdx s.rxActive) s.cfg.rxBufSize] := .of_eq (by simp) (by simp) (by simp)
  have hfault : (((s.writeRx s.rxActive data).setRxActive (otherIdx s.rxActive)).armIn
      (otherIdx s.rxActive)).fault = none := by simp [hf]
  obtain ⟨_, h⟩ := decodeFrom_lentFrame hfault s.rxActive (data.length / 4) 0
  exact ⟨_, harm.trans h⟩

/-- `RX_COMPLETE` stores through its chunk alone. -/
theorem rxComplete_lentFrame {st : XferStatus} {data : List Byte} {s u : State} (hf : s.fault = none)
    (h : rxComplete st data s = .ok u) : ∃ ev, LentFrame s u ev := by
  obtain rfl | ⟨-, -, ⟨-, rfl⟩ | ⟨-, -, rfl⟩⟩ := rxComplete_ok h
  · exact ⟨[], .of_eq rfl rfl (List.append_nil _).symm⟩
  · exact ⟨[], .of_eq rfl rfl (List.append_nil _).symm⟩
  · exact rxAccept_lentFrame hf data

/-- Every operation: one append or termination, a chunk, or none of SX written at all. -/
theorem opOf_changed_lent {i : Instr} {s u : State} (hf : s.fault = none) (ho : opOf i s = .ok u) {x : Nat}
    (hx : Memory.read u.sxmem x ≠ Memory.read s.sxmem x) :
    ∃ ev, u.trace = s.trace ++ ev ∧ LentOrAnswered s ev x := by
  have hframe : (∃ ev, LentFrame s u ev) → ∃ ev, u.trace = s.trace ++ ev ∧ LentOrAnswered s ev x :=
    fun ⟨ev, k⟩ => ⟨ev, k.trace, k.changed x hx⟩
  cases hb : storedBytes i with
  | some p =>
    obtain ⟨hstep, hk⟩ := opOf_storedBytes (c := p.1) (bs := p.2) hf hb ho
    exact hframe (hstep.lentFrame hk)
  | none =>
    cases i with
    | decodeChunk f len =>
      obtain rfl := Except.ok.inj ho
      exact hframe (decodeFrom_lentFrame hf f (len / 4) 0)
    | rxComplete => exact hframe (rxComplete_lentFrame hf ho)
    | _ => exact absurd (by rw [opOf_sxmem hb nofun nofun ho]) hx

theorem delivered_trace (i : Instr) (s : State) : (delivered i s).trace = s.trace := by
  cases i <;> rfl

/-- A notification's delivery touches no session. -/
theorem LentOrAnswered.of_delivered {i : Instr} {s : State} {ev : List Event} {x : Nat}
    (h : LentOrAnswered (delivered i s) ev x) : LentOrAnswered s ev x := by
  cases i <;> exact h

theorem exec_changed_lent {i : Instr} {s t : State} (h : exec i s = .next t) {x : Nat}
    (hx : Memory.read t.sxmem x ≠ Memory.read s.sxmem x) :
    ∃ ev, t.trace = s.trace ++ ev ∧ LentOrAnswered s ev x := by
  by_cases hr : i = .reset
  · subst hr
    obtain rfl := Host.Outcome.next.inj ((exec_reset s).symm.trans h)
    exact absurd rfl hx
  · have hd := delivered_sxmem i s
    rcases exec_next_cases h hr with ⟨_, -, rfl⟩ | ⟨_, -, -, rfl⟩ | ⟨u, hf, ho, rfl⟩
    · exact absurd (by rw [hd]) hx
    · exact absurd (by rw [hd]) hx
    · obtain ⟨ev, he, hl⟩ := opOf_changed_lent ((delivered_fault i s).trans hf) ho (by rwa [hd])
      exact ⟨ev, he.trans (by rw [delivered_trace]), hl.of_delivered⟩

/-- Settles O44: the whole instruction by `LentFrame`, carried from packet to packet, and one append or
termination by its `SxStep`. -/
theorem storesStayInLentBuffer : Obligations.StoresStayInLentBuffer := by
  refine fun i s t h x hx => ⟨?_, fun c bs hb => ?_⟩
  · obtain ⟨ev, he, hl⟩ := exec_changed_lent h hx
    exact hl.imp_right fun ⟨c, prev, ans, hm, hr⟩ => ⟨ev, c, prev, ans, he, hm, hr⟩
  · obtain ⟨_, -, rfl⟩ | ⟨u, hu, -, rfl⟩ := exec_storedBytes hb h
    · exact absurd rfl hx
    · exact (hu.held_or_answered (.inl hx)).imp_right And.left

/-! ### One step (20_memory.md R60) -/

/-- Settles O3: what `fetch` answers on an inbox with a command, and on an empty one. -/
theorem stepRunsDecodedCommand : Obligations.StepRunsDecodedCommand :=
  ⟨fun s cmd rest h => by simp [step, State.fetch, h], fun s h => by simp [step, State.fetch, h]⟩

end Sys2Proof.Machine

namespace Sys2Proof

/-! ### The header byte and the display word (20_memory.md R52; 00_scope.md R10) -/

theorem hiNibble_toNat (b : Byte) : (hiNibble b).toNat = b.toNat / 16 := by
  revert b; decide

theorem loNibble_toNat (b : Byte) : (loNibble b).toNat = b.toNat % 16 := by
  revert b; decide

/-- Of two words set side by side the first counts `2 ^ n` times. -/
theorem append_toNat {m n : Nat} (x : BitVec m) (y : BitVec n) :
    (x ++ y).toNat = x.toNat * 2 ^ n + y.toNat := by
  rw [BitVec.toNat_append, ← Nat.shiftLeft_add_eq_or_of_lt y.isLt, Nat.shiftLeft_eq]

theorem Packet.displayWord_toNat (p : Packet) :
    p.displayWord.toNat =
      p.p0.toNat * 2 ^ 24 + p.p1.toNat * 2 ^ 16 + p.p2.toNat * 2 ^ 8 + p.p3.toNat := by
  simp only [Packet.displayWord, append_toNat]
  omega

/-- Settles O9: the nibbles of a byte are its quotient and remainder by 16, and `headerByte` puts them back. -/
theorem headerByteNibbles : Obligations.HeaderByteNibbles :=
  ⟨fun c n => ⟨headerByte_toNat c n, hiNibble_headerByte c n, loNibble_headerByte c n⟩, headerByte_nibbles,
    fun p => ⟨hiNibble_toNat p.p0, loNibble_toNat p.p0⟩, Packet.displayWord_toNat⟩

end Sys2Proof
end

section
/-! PROOFS of the family 30_encoding.md (O4, O5, O6, O7, O8, O10, O13): the decoder and the encoder undo each
other, the packet rows as masked matches, the status classes, and the group rows. -/

namespace Sys2Proof.Laws.EncodeDecode

/-- Every instruction, by the law of its constructor. -/
theorem map_decode_encode (i : Instr) : Statement i :=
  match i with
  | .rxCin0 .. => rxCin0 _ _ _ _
  | .rxCin1 .. => rxCin1 _ _ _ _
  | .rxCin2 .. => rxCin2 _ _ _ _
  | .rxCin3 .. => rxCin3 _ _ _ _
  | .rxCin4 .. => rxCin4 _ _ _ _
  | .rxCin5F6 .. => rxCin5F6 _ _ _
  | .rxCin5Term .. => rxCin5Term _ _ _ _
  | .rxCin6 .. => rxCin6 _ _ _ _
  | .rxCin7 .. => rxCin7 _ _ _ _
  | .rxCin8 .. => rxCin8 _ _ _ _
  | .rxCin9 .. => rxCin9 _ _ _ _
  | .rxCinA .. => rxCinA _ _ _ _
  | .rxCinB .. => rxCinB _ _ _ _
  | .rxCinC .. => rxCinC _ _ _ _
  | .rxCinD .. => rxCinD _ _ _ _
  | .rxCinE .. => rxCinE _ _ _ _
  | .rxCinF .. => rxCinF _ _ _ _
  | .encShortPc .. => encShortPc _ _ _
  | .encShortSpp .. => encShortSpp _ _ _
  | .encShortSc1 .. => encShortSc1 _ _ _
  | .encShortDefault .. => encShortDefault _ _ _
  | .encSysexCont .. => encSysexCont _ _ _ _
  | .encSysexEnd1 .. => encSysexEnd1 _ _
  | .encSysexEnd2 .. => encSysexEnd2 _ _ _
  | .encSysexEnd3 .. => encSysexEnd3 _ _ _ _
  | .encShort .. => encShort _ _ _
  | .encSysex .. => encSysex _ _ _
  | .write .. => write _ _
  | .sysexWrite .. => sysexWrite _ _
  | .sendRaw .. => sendRaw _ _
  | .submit .. => submit _
  | .handover => handover
  | .txComplete .. => txComplete _
  | .rxComplete .. => rxComplete _ _
  | .decodeChunk .. => decodeChunk _ _
  | .sxAppend .. => sxAppend _ _ _ _
  | .sxBufreq .. => sxBufreq _ _
  | .sxTerm .. => sxTerm _ _ _
  | .sxReset => sxReset
  | .portOpen => portOpen
  | .portClose => portClose
  | .reset => reset

end Sys2Proof.Laws.EncodeDecode

namespace Sys2Proof

/-! ### Encoding, then decoding (30_encoding.md R83 to R95) -/

/-- Settles O6: the round trip of each constructor, with the encoding named. -/
theorem encodeThenDecodeIsIdentity : Obligations.EncodeThenDecodeIsIdentity := fun i h =>
  Option.map_eq_some_iff.mp (Laws.EncodeDecode.map_decode_encode i h)

/-! ### The packet rows by CIN and first payload byte (R85) -/

/-- The CIN of a packet row. -/
def RxRow.cin : RxRow → Nibble
  | .cin0 => 0x0#4
  | .cin1 => 0x1#4
  | .cin2 => 0x2#4
  | .cin3 => 0x3#4
  | .cin4 => 0x4#4
  | .cin5F6 | .cin5Term => 0x5#4
  | .cin6 => 0x6#4
  | .cin7 => 0x7#4
  | .cin8 => 0x8#4
  | .cin9 => 0x9#4
  | .cinA => 0xA#4
  | .cinB => 0xB#4
  | .cinC => 0xC#4
  | .cinD => 0xD#4
  | .cinE => 0xE#4
  | .cinF => 0xF#4

/-- Of the packets of its CIN the row takes those with first payload byte `p1`. -/
def RxRow.Takes (r : RxRow) (p1 : Byte) : Prop :=
  (r = .cin5F6 → p1 = 0xF6#8) ∧ (r = .cin5Term → p1 ≠ 0xF6#8)

theorem rxRow_cin5 (p1 : Byte) : rxRow 0x5#4 p1 = if p1 = 0xF6#8 then .cin5F6 else .cin5Term := rfl

theorem RxRow.Takes.rxRow_eq {r : RxRow} {p1 : Byte} (h : r.Takes p1) : rxRow r.cin p1 = r := by
  obtain ⟨hF6, hTerm⟩ := h
  cases r with
  | cin5F6 => exact (rxRow_cin5 p1).trans (if_pos (hF6 rfl))
  | cin5Term => exact (rxRow_cin5 p1).trans (if_neg (hTerm rfl))
  | _ => rfl

/-- Of the first payload byte the row sees only whether it is 0xF6. -/
theorem rxRow_congr {n : Nibble} {p1 q1 : Byte} (h : p1 = 0xF6#8 ↔ q1 = 0xF6#8) :
    rxRow n p1 = rxRow n q1 := by
  simp [rxRow, h]

/-- What the row a packet selects says of the packet. -/
theorem rxRow_inv (n : Nibble) (p1 : Byte) : (rxRow n p1).cin = n ∧ (rxRow n p1).Takes p1 := by
  by_cases hp : p1 = 0xF6#8
  · have h : ∀ n, (rxRow n 0xF6#8).cin = n ∧ rxRow n 0xF6#8 ≠ .cin5Term := by decide
    subst hp
    exact ⟨(h n).1, fun _ => rfl, fun ht => absurd ht (h n).2⟩
  · have h : ∀ n, (rxRow n 0#8).cin = n ∧ rxRow n 0#8 ≠ .cin5F6 := by decide
    have h0 : rxRow n p1 = rxRow n 0#8 := rxRow_congr (iff_of_false hp (by decide))
    exact ⟨h0 ▸ (h n).1, fun hF6 => absurd (h0 ▸ hF6) (h n).2, fun _ => hp⟩

/-! ### Decoding, then encoding (R83 to R95) -/

theorem RxRow.Takes.toInstr_wellFormed {r : RxRow} {p1 : Byte} (h : r.Takes p1) (c : Cable) (p2 p3 : Byte) :
    (r.toInstr c p1 p2 p3).wellFormed = true := by
  cases r with
  | cin5Term => exact bne_iff_ne.mpr (h.2 rfl)
  | _ => rfl

theorem RxRow.Takes.encode_toInstr {r : RxRow} {p1 : Byte} (h : r.Takes p1) (c : Cable) (p2 p3 : Byte) :
    encode (r.toInstr c p1 p2 p3) = some (packetOf c r.cin p1 p2 p3) := by
  cases r with
  | cin5F6 => rw [h.1 rfl]; rfl
  | _ => rfl

/-- Its cable, CIN and payload bytes are all of a packet. -/
theorem packetOf_fields (p : Packet) : packetOf p.cable p.cin p.p1 p.p2 p.p3 = .packet p := by
  rw [packetOf, Packet.cable, Packet.cin, headerByte_nibbles]

theorem decodePacket_wellFormed (p : Packet) : (decodePacket p).wellFormed = true :=
  (rxRow_inv p.cin p.p1).2.toInstr_wellFormed p.cable p.p2 p.p3

theorem encode_decodePacket (p : Packet) : encode (decodePacket p) = some (.packet p) := by
  obtain ⟨hcin, htakes⟩ := rxRow_inv p.cin p.p1
  rw [decodePacket, htakes.encode_toInstr, hcin, packetOf_fields]

theorem StatusRow.toInstr_wellFormed (c : Cable) (s : Byte) (d : List Byte) :
    ((statusRow s).toInstr c s d).wellFormed = true := by
  cases h : statusRow s <;> exact beq_iff_eq.mpr h

theorem StatusRow.encode_toInstr (r : StatusRow) (c : Cable) (s : Byte) (d : List Byte) :
    encode (r.toInstr c s d) = some (.status s c d) := by
  cases r <;> rfl

theorem Group.toInstr_wellFormed (g : Group) (c : Cable) : (g.toInstr c).wellFormed = true := by
  cases g <;> rfl

theorem Group.encode_toInstr (g : Group) (c : Cable) : encode (g.toInstr c) = some (.group c g) := by
  cases g <;> rfl

/-- The condition a call carries is the one its instruction is checked for. -/
theorem Call.toInstr_wellFormed (k : Call) : k.toInstr.wellFormed = true := by
  cases k with
  | encShort _ _ _ h | encSysex _ _ _ h | submit _ h | decodeChunk _ _ h | sxTerm _ _ _ h =>
    exact decide_eq_true h
  | _ => rfl

theorem Call.encode_toInstr (k : Call) : encode k.toInstr = some (.op k) := by
  cases k with
  | encShort _ _ _ h | encSysex _ _ _ h | submit _ h | decodeChunk _ _ h | sxTerm _ _ _ h =>
    exact dif_pos h
  | _ => rfl

/-- Settles O7: by the form of the command. -/
theorem decodeThenEncodeIsIdentity : Obligations.DecodeThenEncodeIsIdentity
  | .packet p => ⟨decodePacket_wellFormed p, encode_decodePacket p⟩
  | .status s c d => ⟨StatusRow.toInstr_wellFormed c s d, (statusRow s).encode_toInstr c s d⟩
  | .group c g => ⟨g.toInstr_wellFormed c, g.encode_toInstr c⟩
  | .op k => ⟨k.toInstr_wellFormed, k.encode_toInstr⟩

/-! ### The packet rows as masked matches (R95) -/

theorem Packet.displayWord_inj {p q : Packet} : p.displayWord = q.displayWord ↔ p = q := by
  refine ⟨fun h => ?_, congrArg _⟩
  obtain ⟨p0, p1, p2, p3⟩ := p
  obtain ⟨q0, q1, q2, q3⟩ := q
  have hn := congrArg BitVec.toNat h
  simp only [Packet.displayWord_toNat] at hn
  congr 1 <;> bv_omega

/-- A mask acts on each byte of the packet. -/
theorem Packet.displayWord_and (p q : Packet) :
    p.displayWord &&& q.displayWord =
      Packet.displayWord ⟨p.p0 &&& q.p0, p.p1 &&& q.p1, p.p2 &&& q.p2, p.p3 &&& q.p3⟩ :=
  BitVec.and_append.trans <| congrArg (· ++ (p.p3 &&& q.p3)) <|
    BitVec.and_append.trans <| congrArg (· ++ (p.p2 &&& q.p2)) BitVec.and_append

/-- The bytes of a row's mask: the CIN nibble, and for `RX_CIN5_F6` also `p[1]`. -/
def RxRow.maskBytes (r : RxRow) : Packet :=
  ⟨0x0F#8, if r = .cin5F6 then 0xFF#8 else 0#8, 0#8, 0#8⟩

/-- The bytes of a row's match. -/
def RxRow.matchBytes (r : RxRow) : Packet :=
  ⟨headerByte 0#4 r.cin, if r = .cin5F6 then 0xF6#8 else 0#8, 0#8, 0#8⟩

theorem packetTable_bytes : ∀ e ∈ packetTable,
    e.mask = e.row.maskBytes.displayWord ∧ e.pattern = e.row.matchBytes.displayWord := by
  decide

theorem exists_packetTable_row (r : RxRow) : ∃ e ∈ packetTable, e.row = r := by
  cases r <;> decide

theorem and_0F_eq_headerByte_iff {b : Byte} {n : Nibble} :
    b &&& 0x0F#8 = headerByte 0#4 n ↔ loNibble b = n := by
  have h : b &&& 0x0F#8 = headerByte 0#4 (loNibble b) := by revert b; decide
  rw [h]
  exact ⟨fun h => by simpa using congrArg loNibble h, congrArg _⟩

theorem packetTable_match_iff {e : PacketMatch} (he : e ∈ packetTable) (p : Packet) :
    p.displayWord &&& e.mask = e.pattern ↔ p.cin = e.row.cin ∧ (e.row = .cin5F6 → p.p1 = 0xF6#8) := by
  obtain ⟨hmask, hmatch⟩ := packetTable_bytes e he
  rw [hmask, hmatch, Packet.displayWord_and, Packet.displayWord_inj]
  have hFF : p.p1 &&& 0xFF#8 = p.p1 := BitVec.and_allOnes
  by_cases h : e.row = .cin5F6 <;>
    simp [RxRow.maskBytes, RxRow.matchBytes, h, hFF, and_0F_eq_headerByte_iff, Packet.cin]

/-- The one overlap of the table: a packet of `RX_CIN5_F6` also matches `RX_CIN5_TERM`. -/
theorem packetTable_match_cases {e : PacketMatch} (he : e ∈ packetTable) {p : Packet}
    (h : p.displayWord &&& e.mask = e.pattern) :
    e.row = rxRow p.cin p.p1 ∨ (e.row = .cin5Term ∧ rxRow p.cin p.p1 = .cin5F6) := by
  obtain ⟨hcin, hF6⟩ := (packetTable_match_iff he p).mp h
  rw [hcin]
  by_cases hover : e.row = .cin5Term ∧ p.p1 = 0xF6#8
  · obtain ⟨hrow, hp⟩ := hover
    exact .inr ⟨hrow, by rw [hrow, hp]; rfl⟩
  · have htakes : e.row.Takes p.p1 := ⟨hF6, fun hrow hp => hover ⟨hrow, hp⟩⟩
    exact .inl htakes.rxRow_eq.symm

/-- The entry of the row a packet selects matches it. -/
theorem packetTable_match_rxRow {e : PacketMatch} (he : e ∈ packetTable) {p : Packet}
    (hrow : e.row = rxRow p.cin p.p1) : p.displayWord &&& e.mask = e.pattern := by
  obtain ⟨hcin, htakes⟩ := rxRow_inv p.cin p.p1
  exact (packetTable_match_iff he p).mpr (hrow ▸ ⟨hcin.symm, htakes.1⟩)

/-- Whether the packet matches an entry of the table. -/
def Packet.fits (p : Packet) (e : PacketMatch) : Bool := p.displayWord &&& e.mask == e.pattern

theorem tableRow_eq_find? (p : Packet) : tableRow p = (packetTable.find? p.fits).map (·.row) := rfl

/-- The entry of `RX_CIN5_F6` stands first; every other packet matches one row alone. -/
theorem tableRow_eq_rxRow (p : Packet) : tableRow p = some (rxRow p.cin p.p1) := by
  rw [tableRow_eq_find?]
  by_cases hF6 : rxRow p.cin p.p1 = .cin5F6
  · have hhead : p.fits ⟨.cin5F6, 0x0FFF0000#32, 0x05F60000#32⟩ :=
      beq_iff_eq.mpr (packetTable_match_rxRow List.mem_cons_self hF6.symm)
    rw [hF6, packetTable, List.cons_append, List.find?_cons_of_pos hhead, Option.map_some]
  · obtain ⟨e₀, he₀, hrow⟩ := exists_packetTable_row (rxRow p.cin p.p1)
    have hsome : (packetTable.find? p.fits).isSome :=
      List.find?_isSome.mpr ⟨e₀, he₀, beq_iff_eq.mpr (packetTable_match_rxRow he₀ hrow)⟩
    obtain ⟨e, he⟩ := Option.isSome_iff_exists.mp hsome
    have hfits : p.fits e := List.find?_some he
    have hcases := packetTable_match_cases (List.mem_of_find?_eq_some he) (beq_iff_eq.mp hfits)
    rw [he, Option.map_some, hcases.resolve_right fun h => hF6 h.2]

/-- Settles O8: the first match by the order of the table, the others by its one overlap. -/
theorem decoderFollowsMaskMatchTable : Obligations.DecoderFollowsMaskMatchTable := fun p =>
  ⟨tableRow_eq_rxRow p, fun _ he h => packetTable_match_cases he h⟩

/-! ### The words of the table and the status classes (R80, R86) -/

/-- Settles O5: the decoder run on the ten words. -/
theorem sampleWordsDecode : Obligations.SampleWordsDecode := by
  unfold Obligations.SampleWordsDecode
  decide

/-- The mask of class PC keeps the three high bits. -/
theorem and_E0_eq_C0_iff (s : Byte) : s &&& 0xE0#8 = 0xC0#8 ↔ 0xC0 ≤ s.toNat ∧ s.toNat ≤ 0xDF := by
  revert s; decide

/-- The mask of class SC1 drops the two low bits. -/
theorem and_FC_eq_F4_iff (s : Byte) : s &&& 0xFC#8 = 0xF4#8 ↔ 0xF4 ≤ s.toNat ∧ s.toNat ≤ 0xF7 := by
  revert s; decide

/-- Settles O10: each class's mask as a range of the status byte. -/
theorem statusClassRanges : Obligations.StatusClassRanges := by
  intro s
  have hspp : s = 0xF2#8 ↔ s.toNat = 0xF2 := BitVec.toNat_inj.symm
  simp only [statusRow, and_E0_eq_C0_iff, hspp, and_FC_eq_F4_iff]

end Sys2Proof

namespace Sys2Proof.Machine

/-! ### A placed word (R95) -/

theorem step_withFetchWord {nbits w : Nat} {cmd : Command} (h : commandOfTableWord nbits w = .ok cmd)
    (s : State) : step (s.withFetchWord nbits w) = exec (decode cmd) s := by
  have hplaced : s.withFetchWord nbits w = { s with inbox := cmd :: s.inbox } := by
    rw [State.withFetchWord, h]
  rw [hplaced]
  exact stepRunsDecodedCommand.1 _ cmd s.inbox rfl

/-- Settles O4: a word of 32 and one of 8 bits as the command it stands for. -/
theorem fetchedWordRunsNext : Obligations.FetchedWordRunsNext := fun s w =>
  ⟨step_withFetchWord (cmd := .packet (.ofDisplayWord w)) rfl s,
    step_withFetchWord (cmd := .status (.ofNat 8 w) 0#4 []) rfl s⟩

/-! ### The group rows (R88; 40_packetizer.md R121 to R124) -/

/-- A row that only returns bytes. -/
theorem invoke_giveResult {s : State} (h : s.fault = none) (bytes : List Byte) :
    invoke (fun s => .ok (s.giveResult bytes)) s = .next { s with result := bytes, outcome := .ok } := by
  rw [invoke_pure h, State.endOutcome_none (t := s.giveResult bytes) h]
  rfl

/-- Settles O13: each group by `groupOf`, and each row as the bytes it returns. -/
theorem groupRowsReturnTheirPacket : Obligations.GroupRowsReturnTheirPacket := fun _ _ _ _ _ =>
  ⟨rfl, rfl, rfl, rfl, fun _ => rfl, fun h =>
    ⟨invoke_giveResult h _, invoke_giveResult h _, invoke_giveResult h _, invoke_giveResult h _⟩⟩

end Sys2Proof.Machine
end

section
/-! PROOFS of the family 40_packetizer.md (O11, O12, O14, O15, O16, O17, O46): the packets the two encoders
return, what the producer's operations submit, and when the decoder gives a short message back. -/

namespace Sys2Proof

/-! ### The packet of a short message (R110 to R114) -/

/-- The three payload bytes of a packet of length `L`: the first `L` message bytes, zeros for the others. -/
def payload (m : List Byte) (L : Nat) : List Byte :=
  (List.range 3).map fun i => if i < L then m.getD i 0#8 else 0#8

theorem getD_take (m : List Byte) (n i : Nat) :
    (m.take n).getD i 0#8 = if i < n then m.getD i 0#8 else 0#8 := by
  rw [List.getD_eq_getElem?_getD, List.getElem?_take]
  split <;> simp

theorem frame_eq_payload (c : Cable) (n : Nibble) (m : List Byte) (L : Nat) :
    frame c n m L = headerByte c n :: payload m L := by
  simp only [frame, getD_take]
  rfl

theorem payload_take (m : List Byte) (n L : Nat) : payload (m.take n) L = payload m (min n L) := by
  refine List.map_congr_left fun i _ => ?_
  rw [getD_take]
  by_cases hL : i < L <;> simp only [hL, Nat.lt_min, and_true, and_false, if_true, if_false]

/-- The CIN of a status class; `DEFAULT` takes the status byte's high nibble (R111 to R114). -/
def StatusRow.cin (s : Byte) : StatusRow → Nibble
  | .pc => 0x2#4
  | .spp => 0x3#4
  | .sc1 => 0x5#4
  | .dflt => hiNibble s

/-- The length of a status class (R111 to R114). -/
def StatusRow.len (p : Params) : StatusRow → Nat
  | .pc => 2
  | .spp => p.sppLen.toNat
  | .sc1 => 1
  | .dflt => 3

theorem StatusRow.len_pos (p : Params) (r : StatusRow) : 0 < r.len p := by
  cases r with
  | spp => cases h : p.sppLen <;> simp [StatusRow.len, h, SppLen.toNat]
  | _ => simp [StatusRow.len]

theorem frameShort_eq_payload (p : Params) (c : Cable) (s : Byte) (data : List Byte) :
    frameShort p c s data =
      headerByte c ((statusRow s).cin s) :: payload (s :: data) ((statusRow s).len p) := by
  unfold frameShort
  cases statusRow s <;> exact frame_eq_payload ..

/-- The classes in priority order (R86), for a function of the class. -/
theorem apply_statusRow {α : Type} (f : StatusRow → α) (s : Byte) :
    f (statusRow s) =
      if s &&& 0xE0#8 = 0xC0#8 then f .pc else if s = 0xF2#8 then f .spp
      else if s &&& 0xFC#8 = 0xF4#8 then f .sc1 else f .dflt := by
  simp only [statusRow, apply_ite f]

/-- A payload of `L` bytes cut to `k` is the whole message when the message has `k` bytes and those beyond
`L`, which the packet does not carry, are zero. -/
theorem take_payload_eq_iff {m : List Byte} {k L : Nat} (hk : k ≤ 3) :
    (payload m L).take k = m ↔ m.length = k ∧ ∀ i, L ≤ i → i < k → m.getD i 0#8 = 0#8 := by
  have ht : (payload m L).take k = (List.range k).map fun i => if i < L then m.getD i 0#8 else 0#8 := by
    rw [payload, ← List.map_take, List.take_range, Nat.min_eq_left hk]
  rw [ht]
  constructor
  · intro h
    have hl : m.length = k := by rw [← h, List.length_map, List.length_range]
    refine ⟨hl, fun i hL hi => ?_⟩
    have hi' := congrArg (·.getD i 0#8) h
    simpa [hi, Nat.not_lt.mpr hL] using hi'.symm
  · rintro ⟨hl, hz⟩
    refine List.ext_getElem (by simp [hl]) fun i hi hm => ?_
    have hget : m.getD i 0#8 = m[i] := by simp [hm]
    rw [List.getElem_map, List.getElem_range, hget]
    split
    · rfl
    · next hL => rw [← hget, hz i (Nat.le_of_not_lt hL) (hl ▸ hm)]

/-! ### What the decoder reads from such a packet (43_decode.md R181 to R199) -/

theorem RxRow.short_eq_false_iff (r : RxRow) : r.short = false ↔ r.shortLen = 0 := by cases r <;> decide

theorem RxRow.shortLen_le (r : RxRow) : r.shortLen ≤ 3 := by cases r <;> decide

/-- How many bytes of a message of status `s` the decoder gives back; none where it reads SysEx. -/
theorem shortLen_rxRow_status (s : Byte) :
    (rxRow ((statusRow s).cin s) s).shortLen =
      if s.toNat ≤ 0x1F ∨ 0x30 ≤ s.toNat ∧ s.toNat ≤ 0x3F ∨ 0x80 ≤ s.toNat ∧ s.toNat ≤ 0xBF ∨
          0xE0 ≤ s.toNat ∧ s.toNat ≤ 0xEF ∨ s.toNat = 0xF2 then 3
      else if 0x20 ≤ s.toNat ∧ s.toNat ≤ 0x2F ∨ 0xC0 ≤ s.toNat ∧ s.toNat ≤ 0xDF then 2
      else if s.toNat = 0xF0 ∨ s.toNat = 0xF1 ∨ s.toNat = 0xF3 ∨ s.toNat = 0xF6 ∨ 0xF8 ≤ s.toNat then 1
      else 0 := by
  revert s; decide

theorem statusRow_eq_spp {s : Byte} (h : statusRow s = .spp) : s = 0xF2#8 := by
  revert s; decide

/-- But for Song Position Pointer the decoder takes no byte the packet does not carry. -/
theorem shortLen_le_len (p : Params) {s : Byte} (hs : s ≠ 0xF2#8) :
    (rxRow ((statusRow s).cin s) s).shortLen ≤ (statusRow s).len p := by
  cases h : statusRow s with
  | pc => exact Nat.le_refl 2
  | spp => exact absurd (statusRow_eq_spp h) hs
  | sc1 =>
    rw [StatusRow.cin, rxRow_cin5, StatusRow.len]
    split <;> decide
  | dflt => exact RxRow.shortLen_le _

/-- The message bytes the decoder takes and the packet does not carry are zero: a condition on the second data
byte of a Song Position Pointer under `SPP_LEN = 2`, and on nothing else. -/
theorem uncarried_zero_iff (p : Params) (s : Byte) (data : List Byte) :
    (∀ i, (statusRow s).len p ≤ i → i < (rxRow ((statusRow s).cin s) s).shortLen →
      (s :: data).getD i 0#8 = 0#8) ↔
    (s.toNat = 0xF2 → p.sppLen = .three ∨ data.getD 1 0#8 = 0#8) := by
  by_cases hs : s = 0xF2#8
  · subst hs
    change (∀ i, p.sppLen.toNat ≤ i → i < 3 → (0xF2#8 :: data).getD i 0#8 = 0#8) ↔ _
    cases hl : p.sppLen with
    | two =>
      have h2 (i : Nat) : 2 ≤ i ∧ i < 3 ↔ i = 2 := by omega
      simp [SppLen.toNat, ← and_imp, h2]
    | three => exact iff_of_true (fun i h3 hi => absurd hi (Nat.not_lt.mpr h3)) fun _ => .inl rfl
  · exact iff_of_true (fun i hL hk => absurd (Nat.lt_of_le_of_lt hL hk) (Nat.not_lt.mpr (shortLen_le_len p hs)))
      fun h => absurd (BitVec.eq_of_toNat_eq h) hs

/-! ### The packets of a SysEx fragment (R120 to R124) -/

/-- Every packet but the last has CIN 4, the last 4 plus the size of its group. -/
theorem frameSysex_header (c : Cable) (bytes : List Byte) (k : Nat) (hk : k < (bytes.length + 2) / 3) :
    (frameSysex c bytes).getD (4 * k) 0#8 = headerByte c
      (if k + 1 < (bytes.length + 2) / 3 then 0x4#4 else BitVec.ofNat 4 (4 + (bytes.length - 3 * k))) := by
  fun_induction frameSysex c bytes generalizing k with
  | case1 => exact absurd hk (Nat.not_lt_zero k)
  | case2 | case3 | case4 =>
    obtain rfl : k = 0 := by simpa using hk
    simp [groupEnd1, groupEnd2, groupEnd3]
  | case5 g0 g1 g2 g3 rest ih =>
    simp only [List.length_cons] at hk ih ⊢
    cases k with
    | zero => rw [if_pos (by omega)]; rfl
    | succ k =>
      have hlast : k + 1 + 1 < (rest.length + 1 + 1 + 1 + 1 + 2) / 3 ↔ k + 1 < (rest.length + 1 + 2) / 3 := by
        omega
      have hsize : rest.length + 1 + 1 + 1 + 1 - 3 * (k + 1) = rest.length + 1 - 3 * k := by omega
      simp only [hlast, hsize]
      exact ih k (by omega)

/-- Packet `k` carries bytes `3k` to `3k + 2`, zeros past the end. -/
theorem frameSysex_payload (c : Cable) (bytes : List Byte) (k j : Nat) (hk : k < (bytes.length + 2) / 3)
    (hj : j < 3) : (frameSysex c bytes).getD (4 * k + 1 + j) 0#8 = bytes.getD (3 * k + j) 0#8 := by
  have hj' : j = 0 ∨ j = 1 ∨ j = 2 := by omega
  fun_induction frameSysex c bytes generalizing k with
  | case1 => exact absurd hk (Nat.not_lt_zero k)
  | case2 | case3 | case4 =>
    obtain rfl : k = 0 := by simpa using hk
    obtain rfl | rfl | rfl := hj' <;> rfl
  | case5 g0 g1 g2 g3 rest ih =>
    cases k with
    | zero => obtain rfl | rfl | rfl := hj' <;> rfl
    | succ k =>
      have hp : 4 * (k + 1) + 1 + j = 4 * k + 1 + j + 4 := by omega
      have hb : 3 * (k + 1) + j = 3 * k + j + 3 := by omega
      rw [hp, hb]
      exact ih k (by simp only [List.length_cons] at hk ⊢; omega)

end Sys2Proof

namespace Sys2Proof.Machine

/-! ### The encoders as instructions (R110 to R124) -/

theorem encShort_ok {c : Cable} {b : Byte} {data : List Byte} (p : Params) (h : data.length ≤ 2) :
    encShort p c (b :: data) = .ok (frameShort p c b data) := if_pos h

theorem encShort_error {c : Cable} {m : List Byte} (p : Params) (h : m.length = 0 ∨ 3 < m.length) :
    encShort p c m = .error .invalidMessageLength := by
  obtain ⟨-, he⟩ | ⟨b, data, rfl, hd, -⟩ := encShort_cases p c m
  · exact he
  · simp only [List.length_cons] at h; omega

theorem exec_encShort (c : Cable) (m : List Byte) (len : Nat) (s : State) :
    exec (.encShort c m len) s = invoke (fun t => (encShort t.cfg c (m.take len)).map t.giveResult) s := rfl

/-- An operation that answers bytes and changes nothing else. -/
theorem invoke_ok_giveResult {op : State → Except ErrCode State} {s : State} {bytes : List Byte}
    (hf : s.fault = none) (ho : op s = .ok (s.giveResult bytes)) :
    invoke op s = .next { s with result := bytes, outcome := .ok } := by
  rw [invoke_ok hf ho, State.endOutcome_none (t := s.giveResult bytes) hf]
  rfl

/-- Settles O11: the message bytes supplied are `m.take len`; their packet is the payload of their class. -/
theorem encShortReturnsOnePacket : Obligations.EncShortReturnsOnePacket := by
  intro s c m len hf hlen
  rw [exec_encShort]
  refine ⟨fun hbad => invoke_error hf ?_, fun h1 h3 => ?_⟩
  · have hl : (m.take len).length = len := List.length_take_of_le hlen
    rw [encShort_error s.cfg (by rwa [hl])]
    rfl
  · obtain ⟨n, rfl⟩ : ∃ n, len = n + 1 := Nat.exists_eq_add_of_le' h1
    obtain ⟨b, data, rfl⟩ := List.exists_cons_of_length_pos (Nat.lt_of_lt_of_le h1 hlen)
    have hd : (data.take n).length ≤ 2 := by rw [List.length_take]; omega
    have hpkt : frameShort s.cfg c b (data.take n) = headerByte c ((statusRow b).cin b) ::
        payload (b :: data) (min (n + 1) ((statusRow b).len s.cfg)) := by
      rw [frameShort_eq_payload, ← payload_take]
      rfl
    rw [apply_statusRow (StatusRow.cin b), apply_statusRow (StatusRow.len s.cfg)] at hpkt
    refine invoke_ok_giveResult hf ?_
    rw [List.take_succ_cons, encShort_ok s.cfg hd, hpkt]
    rfl

/-- Settles O14: `frameSysex` by its length, its headers and its payloads. -/
theorem encSysexFramesGroupsOfThree : Obligations.EncSysexFramesGroupsOfThree := fun s c bytes hf =>
  ⟨frameSysex c (bytes.take bytes.length), invoke_giveResult hf _, by
    rw [List.take_length]
    exact ⟨frameSysex_length c bytes, fun k hk =>
      ⟨frameSysex_header c bytes k hk, fun j hj => frameSysex_payload c bytes k j hk hj⟩⟩⟩

/-- A class row with at most two data bytes returns its packet (R111 to R114). -/
theorem invoke_classRow {data : List Byte} {s : State} (pkt : State → List Byte) (hf : s.fault = none)
    (hd : data.length ≤ 2) :
    invoke (fun t => classRow data (pkt t) t) s = .next { s with result := pkt s, outcome := .ok } :=
  invoke_ok_giveResult hf (if_pos hd)

/-- With more it returns the length error (R119). -/
theorem invoke_classRow_error {data : List Byte} {s : State} (pkt : State → List Byte) (hf : s.fault = none)
    (hd : 2 < data.length) : invoke (fun t => classRow data (pkt t) t) s =
      .next { s with outcome := .err .invalidMessageLength } :=
  invoke_error hf (if_neg (Nat.not_le.mpr hd))

/-- Settles O12: the class in priority order, then each row as its payload. -/
theorem statusRowsReturnTheirPacket : Obligations.StatusRowsReturnTheirPacket := by
  intro s c m0 data
  refine ⟨apply_statusRow (·.toInstr c m0 data) m0, fun hf hd => ?_, fun hf hd => ⟨?_, ?_, ?_, ?_⟩⟩
  · simp only [List.forall_mem_cons]
    exact ⟨invoke_classRow_error (fun _ => framePc c m0 data) hf hd,
      invoke_classRow_error (fun t => frameSpp t.cfg c m0 data) hf hd,
      invoke_classRow_error (fun _ => frameSc1 c m0 data) hf hd,
      invoke_classRow_error (fun _ => frameDefault c m0 data) hf hd, List.forall_mem_nil _⟩
  · refine (invoke_classRow (fun _ => framePc c m0 data) hf hd).trans ?_
    rw [framePc, frame_eq_payload]; rfl
  · refine (invoke_classRow (fun t => frameSpp t.cfg c m0 data) hf hd).trans ?_
    rw [frameSpp, frame_eq_payload]
    cases s.cfg.sppLen <;> rfl
  · refine (invoke_classRow (fun _ => frameSc1 c m0 data) hf hd).trans ?_
    rw [frameSc1, frame_eq_payload]; rfl
  · refine (invoke_classRow (fun _ => frameDefault c m0 data) hf hd).trans ?_
    rw [frameDefault, frame_eq_payload]; rfl

/-! ### The producer's operations (R115 to R117) -/

@[simp] theorem submitted_fault (f : List Byte) (s : State) : (submitted f s).fault = s.fault := by
  rw [submitted_frame]

/-- An operation that does nothing. -/
theorem invoke_noop {op : State → Except ErrCode State} {s : State} (hf : s.fault = none)
    (ho : op s = .ok s) : invoke op s = .next { s with outcome := .ok } := by
  rw [invoke_ok hf ho, State.endOutcome_none hf]

/-- An operation that comes down to a submission that does not fit queues nothing (41_txflow.md R148). -/
theorem invoke_submit_full {op : State → Except ErrCode State} {f : List Byte} {s : State}
    (hf : s.fault = none) (ho : op s = submit f s) (hne : f ≠ [])
    (hq : s.cfg.qCap < s.txq.length + f.length) : invoke op s = .next { s with outcome := .err .queueFull } :=
  invoke_error hf (ho.trans (submit_full hne hq))

/-- One that comes down to a submission that fits submits it (41_txflow.md R140). -/
theorem invoke_submit_fits {op : State → Except ErrCode State} {f : List Byte} {s : State}
    (hf : s.fault = none) (ho : op s = submit f s) (hne : f ≠ [])
    (hq : s.txq.length + f.length ≤ s.cfg.qCap) :
    invoke op s = .next { submitted f s with outcome := .ok } := by
  rw [invoke_ok hf (ho.trans (submit_fits hne hq)), State.endOutcome_none (by rw [submitted_fault, hf])]

theorem exec_write (c : Cable) (m : List Byte) (s : State) : exec (.write c m) s = invoke (write c m) s := rfl

theorem exec_sysexWrite (c : Cable) (bytes : List Byte) (s : State) :
    exec (.sysexWrite c bytes) s = invoke (sysexWrite c bytes) s := rfl

theorem exec_sendRaw (c : Cable) (framed : List Byte) (s : State) :
    exec (.sendRaw c framed) s = invoke (sendRaw c framed) s := rfl

theorem write_closed {c : Cable} {m : List Byte} {s : State} (ho : s.isOpen = false) :
    write c m s = .error .notOpen := by simp [write, ho]

theorem write_badLength {c : Cable} {m : List Byte} {s : State} (ho : s.isOpen = true)
    (hm : m.length = 0 ∨ 3 < m.length) : write c m s = .error .invalidMessageLength := by
  simp [write, ho, encShort_error s.cfg hm]

theorem write_submits {c : Cable} {b : Byte} {data : List Byte} {s : State} (ho : s.isOpen = true)
    (hd : data.length ≤ 2) : write c (b :: data) s = submit (frameShort s.cfg c b data) s := by
  simp [write, ho, encShort_ok s.cfg hd]

theorem sysexWrite_closed {c : Cable} {bytes : List Byte} {s : State} (ho : s.isOpen = false) :
    sysexWrite c bytes s = .error .notOpen := by simp [sysexWrite, ho]

theorem sysexWrite_submits {c : Cable} {bytes : List Byte} {s : State} (ho : s.isOpen = true) :
    sysexWrite c bytes s = submit (frameSysex c bytes) s := by simp [sysexWrite, ho]

theorem sendRaw_closed {c : Cable} {framed : List Byte} {s : State} (ho : s.isOpen = false) :
    sendRaw c framed s = .error .notOpen := by simp [sendRaw, ho]

theorem sendRaw_badLength {c : Cable} {framed : List Byte} {s : State} (ho : s.isOpen = true)
    (hm : framed.length % 4 ≠ 0) : sendRaw c framed s = .error .invalidRawLength := by
  simp [sendRaw, ho, hm]

theorem sendRaw_submits {c : Cable} {framed : List Byte} {s : State} (ho : s.isOpen = true)
    (hm : framed.length % 4 = 0) : sendRaw c framed s = submit framed s := by
  simp [sendRaw, ho, hm]

/-- Settles O15: the closed port, the bad length, and the submission of one packet of 4 bytes. -/
theorem writeSubmitsItsPacket : Obligations.WriteSubmitsItsPacket := by
  intro s c m
  simp only [exec_write]
  refine ⟨fun cause hc => invoke_refused hc, fun hf => ⟨fun ho => invoke_error hf (write_closed ho),
    fun ho hm => invoke_error hf (write_badLength ho hm), ?_⟩⟩
  rintro ho b data rfl hd
  have hw := write_submits (c := c) (b := b) ho hd
  have hl := frameShort_length s.cfg c b data
  have hne : frameShort s.cfg c b data ≠ [] := List.ne_nil_of_length_eq_add_one hl
  exact ⟨fun hq => invoke_submit_full hf hw hne (by rwa [hl]),
    fun hq => invoke_submit_fits hf hw hne (by rwa [hl])⟩

/-- Settles O16: the closed port, and the submission of all the packets, which are none for an empty call. -/
theorem sysexWriteSubmitsAllPackets : Obligations.SysexWriteSubmitsAllPackets := by
  intro s c bytes
  simp only [exec_sysexWrite]
  refine ⟨fun cause hc => invoke_refused hc, fun hf => ⟨fun ho => invoke_error hf (sysexWrite_closed ho),
    fun ho => ?_⟩⟩
  have hw := sysexWrite_submits (c := c) (bytes := bytes) ho
  have hne : bytes ≠ [] → frameSysex c bytes ≠ [] := mt (frameSysex_eq_nil c bytes).mp
  rw [← frameSysex_length c bytes]
  exact ⟨by rintro rfl; exact invoke_noop hf (hw.trans (submit_nil s)),
    fun hb hq => invoke_submit_full hf hw (hne hb) hq, fun hb hq => invoke_submit_fits hf hw (hne hb) hq⟩

/-- Settles O17: the closed port, the bad length, and the submission of the bytes as given. -/
theorem sendRawSubmitsBytesAsGiven : Obligations.SendRawSubmitsBytesAsGiven := by
  intro s c framed
  simp only [exec_sendRaw]
  exact ⟨fun cause hc => invoke_refused hc, fun hf => ⟨fun ho => invoke_error hf (sendRaw_closed ho),
    fun ho => ⟨fun hm => invoke_error hf (sendRaw_badLength ho hm),
      fun he => invoke_noop hf (by rw [he]; exact (sendRaw_submits ho rfl).trans (submit_nil s)),
      fun hne hm hq => invoke_submit_full hf (sendRaw_submits ho hm) hne hq,
      fun hne hm hq => invoke_submit_fits hf (sendRaw_submits ho hm) hne hq⟩⟩⟩

/-! ### Reading a short message back (R127; 43_decode.md R198; 44_sysex.md R221 to R224) -/

/-- The short message of an encoded packet: its payload, cut to the length of the row the CIN selects. -/
theorem shortMsg_of_bytes {p : Packet} {c : Cable} {n : Nibble} {b : Byte} {data : List Byte} {L : Nat}
    (hL : 0 < L) (hp : p.bytes = headerByte c n :: payload (b :: data) L) :
    shortMsg p = .msg c ((payload (b :: data) L).take (rxRow n b).shortLen) := by
  obtain ⟨p0, p1, p2, p3⟩ := p
  obtain ⟨rfl, hpay⟩ := List.cons.inj hp
  have h1 : p1 = b := by simpa [payload, hL] using congrArg (·.getD 0 0#8) hpay
  rw [← hpay, ← h1]
  simp [shortMsg, Packet.cable, Packet.cin]

/-- A short-message row emits its message and does nothing else. -/
theorem packetEffect_short {p : Packet} (s : State) (h : (rxRow p.cin p.p1).short = true) :
    packetEffect p s = s.emit (shortMsg p) := by
  unfold packetEffect shortMsg
  cases hr : rxRow p.cin p.p1 with
  | cin4 | cin5Term | cin6 | cin7 => rw [hr] at h; cases h
  | cin5F6 =>
    have hp : p.p1 = 0xF6#8 := (rxRow_inv p.cin p.p1).2.1 hr
    rw [hp]
    rfl
  | _ => rfl

/-- Without room in the buffer the first event is a buffer request. -/
theorem SxStep.trace_ne_msg {c d : Cable} {bs m : List Byte} {s u : State} (h : SxStep c bs s u)
    (hn : (s.session c).buf = none ∨ (s.session c).capLeft < bs.length) (hu : u.fault = none) :
    u.trace ≠ s.trace ++ [.msg d m] := by
  cases h with
  | fault _ latched => simp [hu] at latched
  | room a held fits => exact absurd fits (Nat.not_le.mpr (hn.resolve_left (by simp [held])))
  | request _ _ _ asked =>
    obtain ⟨prev, ev, ht⟩ := asked
    simp [ht]

theorem sxAppend_trace_ne_msg {c d : Cable} {b1 b2 b3 : Byte} {m : List Byte} {s : State} (hf : s.fault = none)
    (hu : (sxAppend c b1 b2 b3 s).fault = none) : (sxAppend c b1 b2 b3 s).trace ≠ s.trace ++ [.msg d m] := by
  by_cases hn : (s.session c).buf = none ∨ (s.session c).capLeft < 3
  · exact (sxAppend_sxStep hf c b1 b2 b3).trace_ne_msg hn hu
  · obtain ⟨hb, hr⟩ := not_or.mp hn
    obtain ⟨a, ha⟩ := Option.ne_none_iff_exists'.mp hb
    rw [sxAppend_room hf ha (Nat.le_of_not_lt hr), sxStore_some ha]
    simp

theorem sxTerm_trace_ne_msg {c d : Cable} {bs m : List Byte} {s : State} (hf : s.fault = none)
    (hu : (sxTerm c bs s).fault = none) : (sxTerm c bs s).trace ≠ s.trace ++ [.msg d m] := by
  by_cases hn : (s.session c).buf = none ∨ (s.session c).capLeft < bs.length
  · exact (sxTerm_sxStep hf c bs).trace_ne_msg hn hu
  · obtain ⟨hb, hr⟩ := not_or.mp hn
    obtain ⟨a, ha⟩ := Option.ne_none_iff_exists'.mp hb
    rw [sxTerm_room hf ha (Nat.le_of_not_lt hr), sxDeliver_sxStore ha]
    simp

/-- The other rows run the reassembler, which faults or emits something else than one short message. -/
theorem packetEffect_trace_ne_msg {p : Packet} {s : State} {d : Cable} {m : List Byte} (hf : s.fault = none)
    (h : (rxRow p.cin p.p1).short = false) (hu : (packetEffect p s).fault = none) :
    (packetEffect p s).trace ≠ s.trace ++ [.msg d m] := by
  unfold packetEffect at hu ⊢
  cases hr : rxRow p.cin p.p1 with rw [hr] at h hu
  | cin4 => exact sxAppend_trace_ne_msg hf hu
  | cin5Term | cin6 | cin7 => exact sxTerm_trace_ne_msg hf hu
  | _ => cases h

/-- A packet's row emits a given message of at least one byte, and does nothing else, exactly when that is the
packet's short message. -/
theorem exec_decodePacket_emits_iff {s : State} (hf : s.fault = none) (p : Packet) (c : Cable) (b : Byte)
    (data : List Byte) :
    exec (decodePacket p) s = .next { s with trace := s.trace ++ [.msg c (b :: data)], outcome := .ok } ↔
      shortMsg p = .msg c (b :: data) := by
  rw [exec_decodePacket, invoke_pure hf]
  cases h : (rxRow p.cin p.p1).short with
  | true =>
    rw [packetEffect_short s h, State.endOutcome_none (t := s.emit _) hf]
    constructor
    · intro he
      simpa using congrArg State.trace (Host.Outcome.next.inj he)
    · intro he
      rw [he]
      rfl
  | false =>
    refine iff_of_false (fun he => ?_) (by simp [shortMsg, (RxRow.short_eq_false_iff _).mp h])
    have hstate := Host.Outcome.next.inj he
    have hok : (packetEffect p s).endOutcome = .ok := congrArg State.outcome hstate
    exact packetEffect_trace_ne_msg hf h (State.fault_none_of_endOutcome_ok hok) (congrArg State.trace hstate)

/-- Settles O46: the decoder gives the message back when it takes as many bytes as the message has and the
packet carries all of them that are not zero. -/
theorem shortRoundTripExactly : Obligations.ShortRoundTripExactly := by
  intro s c m0 data p hf _ hp
  have hL := (statusRow m0).len_pos s.cfg
  rw [exec_decodePacket_emits_iff hf, shortMsg_of_bytes hL (hp.trans (frameShort_eq_payload ..)),
    Event.msg.injEq, eq_self, true_and, take_payload_eq_iff (RxRow.shortLen_le _), uncarried_zero_iff,
    shortLen_rxRow_status, List.length_cons, roundTrips]
  generalize (s.cfg.sppLen = .three ∨ data.getD 1 0#8 = 0#8) = carried
  -- the status bytes the decoder gives back three, two, one and no bytes of
  split
  · grind
  split
  · grind
  split
  · grind
  · grind

end Sys2Proof.Machine
end

section
/-! PROOFS of the family 41_txflow.md (O18 to O21, O23, O24): the three operations of the flow controller, and
what every instruction does to the bytes queued and sent. -/

namespace Sys2Proof.Machine

/-! ### SUBMIT and HANDOVER (R140, R141) -/

/-- An operation that ends without a fault. -/
theorem invoke_done {op : State → Except ErrCode State} {s u : State} (hf : s.fault = none)
    (ho : op s = .ok u) (hu : u.fault = none) : invoke op s = .next { u with outcome := .ok } := by
  rw [invoke_ok hf ho, State.endOutcome_none hu]

theorem exec_submit (f : List Byte) (s : State) : exec (.submit f) s = invoke (submit f) s := rfl

/-- Settles O18: the three ways a submission goes. -/
theorem submitAppendsOrHandsOver : Obligations.SubmitAppendsOrHandsOver := by
  intro s f hf
  rw [exec_submit]
  exact ⟨by rintro rfl; exact invoke_noop hf (submit_nil s), fun hne hq => invoke_submit_fits hf rfl hne hq,
    fun hne hq => invoke_submit_full hf rfl hne hq⟩

theorem exec_handover {s : State} (hq : s.txq ≠ []) :
    exec .handover s = invoke (fun s => .ok (handover s)) s := if_neg fun h => hq h.2

/-- Settles O19: on a queue that is not empty HANDOVER is `handover`. -/
theorem handoverTakesOldestBytes : Obligations.HandoverTakesOldestBytes := by
  intro s hf hq
  rw [exec_handover hq]
  exact invoke_done (u := handover s) hf rfl hf

/-! ### TX_COMPLETE and the failed transfers (R142 to R144; 42_rxhandoff.md R162, R163) -/

/-- A notification the transport owes, or that is refused or ignored, is one invocation. -/
theorem exec_txComplete {s : State} {st : XferStatus}
    (h : s.fault = none → s.isOpen = true → s.txOwed st = true) :
    exec (.txComplete st) s = invoke (txComplete st) s.txNotified :=
  if_neg fun ⟨hf, ho, hn⟩ => Bool.eq_false_iff.mp hn (h hf ho)

theorem exec_rxComplete {s : State} {st : XferStatus} {data : List Byte} (h : s.rxArmed.isSome = true) :
    exec (.rxComplete st data) s = invoke (rxComplete st data) s.rxNotified :=
  if_neg fun ⟨_, _, hn⟩ => Bool.eq_false_iff.mp hn h

/-- The transport owes a `Success` while it holds a request or nothing is being sent (92_eei_decisions.md D15). -/
theorem State.txOwed_success {s : State} :
    s.txOwed .success = true ↔ s.txInflight.isSome = true ∨ s.sending = false := by
  simp [State.txOwed]

theorem State.txOwed_of_inflight {s : State} (st : XferStatus) (h : s.txInflight.isSome = true) :
    s.txOwed st = true := by
  simp [State.txOwed, h]

theorem txComplete_closed {s : State} (st : XferStatus) (ho : s.isOpen = false) :
    txComplete st s = .ok s := by
  simp [txComplete, ho]

/-- With nothing queued a success clears `sending` (R142). -/
theorem txComplete_success_empty {s : State} (ho : s.isOpen = true) (hq : s.txq = []) :
    txComplete .success s = .ok { s with
      sending := false
      trace := s.trace ++ if s.sending then [.txDone] else [] } := by
  cases hs : s.sending <;> simp [txComplete, ho, hq, hs, State.setSending, State.emit]

/-- With bytes queued a success hands over, before TxDone (R142). -/
theorem txComplete_success_queued {s : State} (ho : s.isOpen = true) (hq : s.txq ≠ []) :
    txComplete .success s = .ok { handover s with
      trace := s.trace ++ .submitOut (s.txq.take (min s.txq.length s.cfg.maxXfer)) ::
        if s.sending then [.txDone] else [] } := by
  cases hs : s.sending <;> simp [txComplete, ho, hq, hs, handover_eq, State.emit]

theorem txComplete_aborted (s : State) : txComplete .aborted s = .ok s := by simp [txComplete]

theorem txComplete_waiting (s : State) : txComplete .waiting s = .ok s := by simp [txComplete]

theorem txComplete_other {s : State} (ho : s.isOpen = true) :
    txComplete .other s = .error .transferError := by
  simp [txComplete, ho]

theorem rxComplete_aborted (data : List Byte) (s : State) : rxComplete .aborted data s = .ok s := by
  simp [rxComplete]

theorem rxComplete_waiting (data : List Byte) (s : State) : rxComplete .waiting data s = .ok s := by
  simp [rxComplete]

theorem rxComplete_other {s : State} (data : List Byte) (ho : s.isOpen = true) :
    rxComplete .other data s = .error .transferError := by
  simp [rxComplete, ho]

/-- Settles O20: refused, ignored, or one of the two ways of a success. -/
theorem txCompleteSuccessDrains : Obligations.TxCompleteSuccessDrains := by
  intro s
  refine ⟨fun cause hc => ?_, fun hf ho => ?_, fun hf ho howed => ⟨fun hq => ?_, fun hq => ?_⟩⟩
  · rw [exec_txComplete fun hf => by simp [hc] at hf]
    exact invoke_refused hc
  · rw [exec_txComplete fun _ hn => by simp [ho] at hn]
    exact invoke_noop hf (txComplete_closed _ ho)
  · rw [exec_txComplete fun _ _ => State.txOwed_success.mpr howed]
    exact invoke_done (s := s.txNotified) hf (txComplete_success_empty ho hq) hf
  · rw [exec_txComplete fun _ _ => State.txOwed_success.mpr howed]
    exact invoke_done (s := s.txNotified) hf (txComplete_success_queued ho hq) hf

/-- Settles O21: a held request whose notification is no success is taken from the transport, and no more. -/
theorem failedTransfersChangeNothing : Obligations.FailedTransfersChangeNothing := by
  intro s data hf ho
  constructor
  · intro hin
    have htx st := exec_txComplete fun _ _ => State.txOwed_of_inflight st hin
    simp only [htx]
    exact ⟨invoke_noop hf (txComplete_aborted _), invoke_noop hf (txComplete_waiting _),
      invoke_error hf (txComplete_other ho)⟩
  · intro harm
    simp only [exec_rxComplete harm]
    exact ⟨invoke_noop hf (rxComplete_aborted data _), invoke_noop hf (rxComplete_waiting data _),
      invoke_error hf (rxComplete_other data ho)⟩

/-! ### What an operation does to the bytes queued and sent (R145, R147) -/

/-- The operation hands nothing to the transport and leaves the queue. -/
structure QueueKept (s t : State) : Prop where
  txq : t.txq = s.txq
  bytes : sentBytes t.trace = sentBytes s.trace
  count : submitCount t.trace = submitCount s.trace

/-- The operation puts `f` behind the bytes sent and queued, and hands over at most once. -/
structure Passes (f : List Byte) (s t : State) : Prop where
  order : sentBytes t.trace ++ t.txq = sentBytes s.trace ++ s.txq ++ f
  count : submitCount t.trace ≤ submitCount s.trace + 1

/-- Events that carry a cable hold no `SubmitOut`. -/
theorem sent_nothing_of_eventCable {ev : List Event} (h : ∀ e ∈ ev, ∃ c, eventCable e = some c) :
    sentBytes ev = [] ∧ submitCount ev = 0 := by
  induction ev with
  | nil => exact ⟨rfl, rfl⟩
  | cons e ev ih =>
    obtain ⟨c, hc⟩ := h e List.mem_cons_self
    have hev := ih fun x hx => h x (List.mem_cons_of_mem e hx)
    cases e with
    | submitOut => cases hc
    | _ => exact hev

namespace QueueKept

variable {s t u : State}

theorem refl (s : State) : QueueKept s s := ⟨rfl, rfl, rfl⟩

theorem trans (h : QueueKept s t) (k : QueueKept t u) : QueueKept s u :=
  ⟨k.txq.trans h.txq, k.bytes.trans h.bytes, k.count.trans h.count⟩

/-- The trace grows by events that are no `SubmitOut`. -/
theorem of_trace {ev : List Event} (hq : t.txq = s.txq) (ht : t.trace = s.trace ++ ev)
    (hb : sentBytes ev = []) (hc : submitCount ev = 0) : QueueKept s t :=
  ⟨hq, by simp [ht, hb], by simp [ht, hc]⟩

theorem of_decodeFrame {P : Cable → Prop} (h : DecodeFrame P s t) : QueueKept s t := by
  obtain ⟨ev, he, hc⟩ := h.trace
  obtain ⟨hb, hn⟩ := sent_nothing_of_eventCable fun e hm => (hc e hm).imp fun _ hk => hk.2
  exact of_trace h.txq he hb hn

theorem giveResult (s : State) (bytes : List Byte) : QueueKept s (s.giveResult bytes) := ⟨rfl, rfl, rfl⟩

theorem delivered (i : Instr) (s : State) : QueueKept s (delivered i s) := by
  cases i <;> exact ⟨rfl, rfl, rfl⟩

theorem rxAccept (data : List Byte) (s : State) : QueueKept s (rxAccept data s) :=
  have harm : QueueKept s
      (((s.writeRx s.rxActive data).setRxActive (otherIdx s.rxActive)).armIn (otherIdx s.rxActive)) :=
    of_trace (ev := [.armIn (otherIdx s.rxActive) s.cfg.rxBufSize]) (by simp) (by simp) rfl rfl
  harm.trans (.of_decodeFrame (decodeChunk_frame _ _ _))

theorem rxComplete {st : XferStatus} {data : List Byte} (h : rxComplete st data s = .ok u) :
    QueueKept s u := by
  obtain rfl | ⟨-, -, ⟨-, rfl⟩ | ⟨-, -, rfl⟩⟩ := rxComplete_ok h
  · exact refl _
  · exact ⟨rfl, rfl, rfl⟩
  · exact rxAccept data s

theorem portOpen (s : State) : QueueKept s (portOpen s) := by
  unfold Machine.portOpen
  split
  · exact refl s
  · exact of_trace (ev := [.armIn .buf0 s.cfg.rxBufSize, .portOpened]) rfl (by simp) rfl rfl

theorem passes (h : QueueKept s t) : Passes [] s t :=
  ⟨by rw [h.bytes, h.txq, List.append_nil], by rw [h.count]; exact Nat.le_succ _⟩

end QueueKept

theorem emit_txDone_queueKept (s : State) : QueueKept s (s.emit .txDone) := .of_trace rfl rfl rfl rfl

theorem portClose_submitCount (s : State) : submitCount (portClose s).trace = submitCount s.trace := by
  unfold portClose
  split
  · simp [sxReset, submitCount]
  · rfl

namespace Passes

variable {f : List Byte} {s t u : State}

/-- Recording the outcome changes neither. -/
theorem withOutcome (h : Passes f s t) (o : OpOutcome) : Passes f s { t with outcome := o } :=
  ⟨h.order, h.count⟩

theorem of_kept_left (k : Passes f t u) (h : QueueKept s t) : Passes f s u :=
  ⟨by rw [k.order, h.bytes, h.txq], h.count ▸ k.count⟩

theorem of_kept_right (h : Passes f s t) (k : QueueKept t u) : Passes f s u :=
  ⟨by rw [k.bytes, k.txq, h.order], k.count ▸ h.count⟩

/-- The oldest bytes go from the queue to the end of the bytes sent (R141). -/
theorem handover (s : State) : Passes [] s (handover s) := by
  rw [handover_eq]
  exact ⟨by simp [sentBytes], by simp [submitCount]⟩

theorem submitted (f : List Byte) (s : State) : Passes f s (submitted f s) := by
  obtain ⟨ev, he, hb, hc⟩ := submitted_bytes f s
  exact ⟨by rw [he, sentBytes_append, List.append_assoc, hb, List.append_assoc], by simp [he, hc]⟩

theorem submit (h : submit f s = .ok u) : Passes f s u := by
  obtain ⟨rfl, rfl⟩ | ⟨-, -, rfl⟩ := submit_ok h
  · exact (QueueKept.refl _).passes
  · exact submitted f s

theorem txComplete {st : XferStatus} (h : txComplete st s = .ok u) : Passes [] s u := by
  obtain rfl | ⟨-, -, t, ht, rfl⟩ := txComplete_ok h
  · exact (QueueKept.refl _).passes
  · have hst : Passes [] s t := by
      obtain ⟨-, rfl⟩ | ⟨-, rfl⟩ := ht
      · exact QueueKept.passes ⟨rfl, rfl, rfl⟩
      · exact handover s
    split
    · exact hst.of_kept_right (emit_txDone_queueKept t)
    · exact hst

end Passes

theorem submit_fault {f : List Byte} {s u : State} (h : submit f s = .ok u) : u.fault = s.fault := by
  obtain ⟨-, rfl⟩ | ⟨-, -, rfl⟩ := submit_ok h
  · rfl
  · exact submitted_fault f s

/-- An operation is the submission of the bytes it frames, or frames none and only moves bytes on. -/
theorem opOf_submits_or_passes {i : Instr} {s u : State} (ho : opOf i s = .ok u) (hc : i ≠ .portClose)
    (hr : i ≠ .reset) :
    submit (framedBy s.cfg i) s = .ok u ∨ (framedBy s.cfg i = [] ∧ Passes [] s u) := by
  cases i with
  | write =>
    obtain ⟨-, b, data, rfl, -, hsub⟩ := write_ok ho
    exact .inl hsub
  | sysexWrite => exact .inl (sysexWrite_ok ho).2
  | sendRaw c =>
    obtain ⟨-, -, hsub⟩ := sendRaw_ok (c := c) ho
    exact .inl hsub
  | submit => exact .inl ho
  | portClose => exact absurd rfl hc
  | reset => exact absurd rfl hr
  | handover =>
    obtain rfl := Except.ok.inj ho
    exact .inr ⟨rfl, .handover s⟩
  | txComplete => exact .inr ⟨rfl, .txComplete ho⟩
  | rxComplete => exact .inr ⟨rfl, (QueueKept.rxComplete ho).passes⟩
  | rxCin0 | rxCin1 | rxCin2 | rxCin3 | rxCin5F6 | rxCin8 | rxCin9 | rxCinA | rxCinB | rxCinC | rxCinD
  | rxCinE | rxCinF =>
    obtain rfl := Except.ok.inj ho
    exact .inr ⟨rfl, (QueueKept.of_decodeFrame (emit_frame s _ rfl)).passes⟩
  | rxCin4 c b1 b2 b3 | sxAppend c b1 b2 b3 =>
    obtain rfl := Except.ok.inj ho
    exact .inr ⟨rfl, (QueueKept.of_decodeFrame (sxAppend_frame c b1 b2 b3 s)).passes⟩
  | rxCin5Term c | rxCin6 c | rxCin7 c | sxTerm c =>
    obtain rfl := Except.ok.inj ho
    exact .inr ⟨rfl, (QueueKept.of_decodeFrame (sxTerm_frame c _ s)).passes⟩
  | encShortPc | encShortSpp | encShortSc1 | encShortDefault =>
    obtain rfl := classRow_ok ho
    exact .inr ⟨rfl, (QueueKept.giveResult s _).passes⟩
  | encShort =>
    obtain ⟨pkt, rfl⟩ := encShort_map_ok ho
    exact .inr ⟨rfl, (QueueKept.giveResult s pkt).passes⟩
  | encSysexCont | encSysexEnd1 | encSysexEnd2 | encSysexEnd3 | encSysex =>
    obtain rfl := Except.ok.inj ho
    exact .inr ⟨rfl, (QueueKept.giveResult s _).passes⟩
  | decodeChunk f len =>
    obtain rfl := Except.ok.inj ho
    exact .inr ⟨rfl, (QueueKept.of_decodeFrame (decodeChunk_frame f len s)).passes⟩
  | sxBufreq c need =>
    obtain rfl := Except.ok.inj ho
    exact .inr ⟨rfl, (QueueKept.of_decodeFrame (sxBufreq_frame c need s)).passes⟩
  | sxReset =>
    obtain rfl := Except.ok.inj ho
    exact .inr ⟨rfl, QueueKept.passes ⟨rfl, rfl, rfl⟩⟩
  | portOpen =>
    obtain rfl := Except.ok.inj ho
    exact .inr ⟨rfl, (QueueKept.portOpen s).passes⟩

/-- An instruction that completes passes on the bytes it framed if it returned Ok, else none. -/
theorem exec_passes {i : Instr} {s t : State} (h : exec i s = .next t) (hc : i ≠ .portClose)
    (hr : i ≠ .reset) : Passes (if t.outcome = .ok then framedBy s.cfg i else []) s t := by
  have hd := QueueKept.delivered i s
  rcases exec_next_cases h hr with ⟨c, -, rfl⟩ | ⟨e, -, -, rfl⟩ | ⟨u, hf, ho, rfl⟩
  · exact hd.passes.withOutcome _
  · exact hd.passes.withOutcome _
  · have hu : Passes (if u.endOutcome = .ok then framedBy s.cfg i else []) (delivered i s) u := by
      have hcfg := (delivered_traceFrame i s).cfg
      obtain hsub | ⟨hnone, hp⟩ := opOf_submits_or_passes ho hc hr
      · have hfu := (submit_fault hsub).trans ((delivered_fault i s).trans hf)
        rw [if_pos (State.endOutcome_none hfu), ← hcfg]
        exact .submit hsub
      · rwa [← hcfg, hnone, ite_self]
    exact (hu.of_kept_left hd).withOutcome _

/-- Settles O23: every instruction but the two that discard the queue `Passes` its bytes. -/
theorem queueOrderIsFifo : Obligations.QueueOrderIsFifo := fun _ _ _ h hc hr => (exec_passes h hc hr).order

/-! ### One transfer in flight (R145) -/

theorem exec_portClose_submitCount {s t : State} (h : exec .portClose s = .next t) :
    submitCount t.trace = submitCount s.trace := by
  rcases exec_next_cases h (by decide) with ⟨_, -, rfl⟩ | ⟨_, -, -, rfl⟩ | ⟨u, -, ho, rfl⟩
  · rfl
  · rfl
  · obtain rfl := Except.ok.inj ho
    exact portClose_submitCount s

/-- No instruction emits two `SubmitOut`. -/
theorem exec_submitCount_le {i : Instr} {s t : State} (h : exec i s = .next t) :
    submitCount t.trace ≤ submitCount s.trace + 1 := by
  by_cases hc : i = .portClose
  · subst hc
    exact exec_portClose_submitCount h ▸ Nat.le_succ _
  by_cases hr : i = .reset
  · subst hr
    obtain rfl := Host.Outcome.next.inj ((exec_reset s).symm.trans h)
    exact Nat.le_succ _
  · exact (exec_passes h hc hr).count

/-- While something is being sent a submission only queues (R140). -/
theorem submit_sending {f : List Byte} {s u : State} (hs : s.sending = true) (h : submit f s = .ok u) :
    u.trace = s.trace := by
  obtain ⟨-, rfl⟩ | ⟨-, -, rfl⟩ := submit_ok h
  · rfl
  · simp [submitted, hs]

theorem delivered_txInflight {i : Instr} (hi : ∀ st, i ≠ .txComplete st) (s : State) :
    (delivered i s).txInflight = s.txInflight := by
  cases i with
  | txComplete st => exact absurd rfl (hi st)
  | _ => rfl

namespace RunInv

variable {s t u : State}

/-- On an open port `sending` is set while a transfer is in flight. -/
theorem sending_of_inflight (h : RunInv s) (ho : s.isOpen = true) (hin : s.txInflight.isSome = true) :
    s.sending = true := by
  cases hs : s.sending with
  | true => rfl
  | false =>
    rw [h.in_flight ho hs] at hin
    cases hin

theorem producer_submitCount {i : Instr} (h : RunInv s) (hin : s.txInflight.isSome = true)
    (hi : agentsOf i = [.producer]) (ho : opOf i s = .ok u) : submitCount u.trace = submitCount s.trace := by
  obtain ⟨hop, f, -, hsub⟩ := opOf_producer_ok hi ho
  rw [submit_sending (h.sending_of_inflight hop hin) hsub]

/-- An agent's operation other than the completion hands nothing over while a transfer is in flight. -/
theorem opOf_submitCount {i : Instr} (h : RunInv s) (hin : s.txInflight.isSome = true)
    (hi : agentOp i = true) (hn : ∀ st, i ≠ .txComplete st) (ho : opOf i s = .ok u) :
    submitCount u.trace = submitCount s.trace := by
  cases i with
  | write c m => exact h.producer_submitCount (i := .write c m) hin rfl ho
  | sysexWrite c bytes => exact h.producer_submitCount (i := .sysexWrite c bytes) hin rfl ho
  | sendRaw c framed => exact h.producer_submitCount (i := .sendRaw c framed) hin rfl ho
  | txComplete st => exact absurd rfl (hn st)
  | rxComplete st data => exact (QueueKept.rxComplete ho).count
  | portOpen =>
    obtain rfl := Except.ok.inj ho
    exact (QueueKept.portOpen s).count
  | portClose =>
    obtain rfl := Except.ok.inj ho
    exact portClose_submitCount s
  | reset =>
    obtain rfl := Except.ok.inj ho
    rfl
  | _ => simp [agentOp, agentsOf] at hi

theorem exec_submitCount {i : Instr} (h : RunInv s) (hin : s.txInflight.isSome = true)
    (hi : agentOp i = true) (hn : ∀ st, i ≠ .txComplete st) (he : exec i s = .next t) :
    submitCount t.trace = submitCount s.trace := by
  by_cases hr : i = .reset
  · subst hr
    obtain rfl := Host.Outcome.next.inj ((exec_reset s).symm.trans he)
    rfl
  · have hd := QueueKept.delivered i s
    rcases exec_next_cases he hr with ⟨_, -, rfl⟩ | ⟨_, -, -, rfl⟩ | ⟨u, -, ho, rfl⟩
    · exact hd.count
    · exact hd.count
    · have hin' : (Machine.delivered i s).txInflight.isSome = true := by rwa [delivered_txInflight hn]
      exact ((h.delivered i).opOf_submitCount hin' hi hn ho).trans hd.count

end RunInv

/-- Settles O24: one command is one instruction, which is an agent's, and on an open port a transfer in flight
means that `sending` is set. -/
theorem oneTransferInFlight : Obligations.OneTransferInFlight := by
  intro s t cmd rest h hin hs
  have he := (stepRunsDecodedCommand.1 s cmd rest hin).symm.trans hs
  have hle := exec_submitCount_le he
  exact ⟨hle, fun hfl hn =>
    (h.tail hin).exec_submitCount hfl (h.agents cmd (hin ▸ List.mem_cons_self)) hn he⟩

end Sys2Proof.Machine
end

section
/-! PROOFS of the family 42_rxhandoff.md (O25, O26, O27, O28, O31, O60): what RX_COMPLETE hands to the decoder,
which operations arm a buffer, and how a failed transfer stalls its direction. -/

namespace Sys2Proof.Machine

/-! ### RX_COMPLETE (R160, R161) -/

/-- The state RX_COMPLETE hands to DECODE_CHUNK: the chunk in the active buffer, the other one active and
armed (R160). -/
def rearmed (data : List Byte) (s : State) : State :=
  ((s.writeRx s.rxActive data).setRxActive (otherIdx s.rxActive)).armIn (otherIdx s.rxActive)

theorem rearmed_eq (data : List Byte) (s : State) :
    rearmed data s = { s with
      rxbuf0 := if s.rxActive = .buf0 then data ++ s.rxbuf0.drop data.length else s.rxbuf0
      rxbuf1 := if s.rxActive = .buf1 then data ++ s.rxbuf1.drop data.length else s.rxbuf1
      rxActive := otherIdx s.rxActive
      rxArmed := some (otherIdx s.rxActive)
      trace := s.trace ++ [.armIn (otherIdx s.rxActive) s.cfg.rxBufSize] } := by
  unfold rearmed
  cases s.rxActive <;> rfl

@[simp] theorem rearmed_isOpen (data : List Byte) (s : State) : (rearmed data s).isOpen = s.isOpen :=
  State.writeRx_isOpen s _ _

@[simp] theorem rearmed_sending (data : List Byte) (s : State) : (rearmed data s).sending = s.sending :=
  State.writeRx_sending s _ _

@[simp] theorem rearmed_txInflight (data : List Byte) (s : State) :
    (rearmed data s).txInflight = s.txInflight :=
  State.writeRx_txInflight s _ _

@[simp] theorem rearmed_fault (data : List Byte) (s : State) : (rearmed data s).fault = s.fault :=
  State.writeRx_fault s _ _

@[simp] theorem rearmed_rxActive (data : List Byte) (s : State) :
    (rearmed data s).rxActive = otherIdx s.rxActive := rfl

@[simp] theorem rearmed_rxArmed (data : List Byte) (s : State) :
    (rearmed data s).rxArmed = some (otherIdx s.rxActive) := rfl

@[simp] theorem rearmed_trace (data : List Byte) (s : State) :
    (rearmed data s).trace = s.trace ++ [.armIn (otherIdx s.rxActive) s.cfg.rxBufSize] := by
  rw [rearmed_eq]

@[simp] theorem rearmed_rxbuf_active (data : List Byte) (s : State) :
    (rearmed data s).rxbuf s.rxActive = data ++ (s.rxbuf s.rxActive).drop data.length :=
  State.rxbuf_writeRx_self s s.rxActive data

@[simp] theorem rearmed_rxbuf_other (data : List Byte) (s : State) :
    (rearmed data s).rxbuf (otherIdx s.rxActive) = s.rxbuf (otherIdx s.rxActive) :=
  State.rxbuf_writeRx_other s s.rxActive data

/-- Arming the other buffer overwrites what the notification's delivery did (10_state.md R30). -/
theorem rearmed_rxNotified (data : List Byte) (s : State) : rearmed data s.rxNotified = rearmed data s := by
  rw [rearmed_eq, rearmed_eq]
  rfl

theorem rxAccept_eq (data : List Byte) (s : State) :
    rxAccept data s = decodeChunk s.rxActive data.length (rearmed data s) := rfl

theorem rxComplete_badLength {data : List Byte} {s : State} (ho : s.isOpen = true)
    (h : data.length % 4 ≠ 0 ∨ s.cfg.rxBufSize < data.length) :
    rxComplete .success data s = .ok (s.latch .badChunkLength) := by
  simp [rxComplete, ho, h]

theorem rxComplete_accepts {data : List Byte} {s : State} (ho : s.isOpen = true)
    (hm : data.length % 4 = 0) (hl : data.length ≤ s.cfg.rxBufSize) :
    rxComplete .success data s = .ok (rxAccept data s) := by
  simp [rxComplete, ho, hm, Nat.not_lt.mpr hl]

/-- Settles O26: the one write is the latched cause. -/
theorem badChunkLengthFaults : Obligations.BadChunkLengthFaults := by
  intro s data hf ho harm hbad
  rw [exec_rxComplete harm, invoke_ok (s := s.rxNotified) hf (rxComplete_badLength ho hbad)]
  simp [State.latch, State.endOutcome, State.rxNotified, hf]

theorem exec_decodeChunk {f : RxIdx} {len : Nat} {s : State} (hl : len ≤ s.cfg.rxBufSize) :
    exec (.decodeChunk f len) s = invoke (fun s => .ok (decodeChunk f len s)) s :=
  if_neg fun h => Nat.not_lt.mpr hl h.2

/-- A good chunk is decoded from the state that is filled, swapped and armed (R160). -/
theorem exec_rxComplete_accepts {s : State} {data : List Byte} (hf : s.fault = none) (ho : s.isOpen = true)
    (harm : s.rxArmed.isSome = true) (hm : data.length % 4 = 0) (hl : data.length ≤ s.cfg.rxBufSize) :
    exec (.rxComplete .success data) s =
      invoke (fun u => .ok (decodeChunk s.rxActive data.length u)) (rearmed data s) := by
  rw [exec_rxComplete harm, invoke_ok (s := s.rxNotified) hf (rxComplete_accepts ho hm hl), rxAccept_eq,
    rearmed_rxNotified, invoke_pure ((rearmed_fault data s).trans hf)]
  rfl

/-- Settles O25: both sides are one invocation of `decodeChunk` on the state `rearmed`. -/
theorem rxCompleteSwapsArmsDecodes : Obligations.RxCompleteSwapsArmsDecodes := by
  intro s data hf ho harm hm hl
  have hpure := invoke_pure (g := decodeChunk s.rxActive data.length) ((rearmed_fault data s).trans hf)
  refine ⟨_, (exec_rxComplete_accepts hf ho harm hm hl).trans hpure, ?_⟩
  rw [← rearmed_eq, exec_decodeChunk (by rw [rearmed_eq]; exact hl), hpure]

/-- On an open port only a held request is completed (R166). -/
theorem rxArmed_of_rxComplete_next {st : XferStatus} {data : List Byte} {s t : State} (hf : s.fault = none)
    (ho : s.isOpen = true) (h : exec (.rxComplete st data) s = .next t) : s.rxArmed.isSome = true := by
  refine Option.isSome_iff_ne_none.mpr fun hn => not_stops_of_next h ⟨hf, ?_⟩
  exact .inr (.inr (.inr ⟨st, data, rfl, ho, State.rxOwed_eq_false.mpr hn⟩))

/-- Settles O27: decoding leaves the buffers and their roles as they were handed to it. -/
theorem rxBuffersAlternate : Obligations.RxBuffersAlternate := by
  intro s t data hf ho hm hl h
  have harm := rxArmed_of_rxComplete_next hf ho h
  rw [exec_rxComplete_accepts hf ho harm hm hl, invoke_pure ((rearmed_fault data s).trans hf)] at h
  obtain rfl := Host.Outcome.next.inj h
  have hk := decodeChunk_frame s.rxActive data.length (rearmed data s)
  exact ⟨(hk.rxbuf _).trans (rearmed_rxbuf_active data s), (hk.rxbuf _).trans (rearmed_rxbuf_other data s),
    hk.rxActive.trans (rearmed_rxActive data s), hk.rxArmed.trans (rearmed_rxArmed data s)⟩

/-! ### A chunk of short messages (43_decode.md R180, R198) -/

theorem flatMap_bytes_length (ps : List Packet) : (ps.flatMap Packet.bytes).length = 4 * ps.length := by
  induction ps with
  | nil => rfl
  | cons p ps ih =>
    have hp : p.bytes.length = 4 := rfl
    rw [List.flatMap_cons, List.length_append, hp, ih, List.length_cons, Nat.mul_succ, Nat.add_comm]

/-- A packet is read where its bytes stand. -/
theorem State.rxPacket_of_drop {s : State} {f : RxIdx} {off : Nat} {p : Packet} {rest : List Byte}
    (h : (s.rxbuf f).drop off = p.bytes ++ rest) : s.rxPacket f off = p := by
  have hget (k : Nat) : (s.rxbuf f).getD (off + k) 0#8 = (p.bytes ++ rest).getD k 0#8 := by
    rw [← h, List.getD_eq_getElem?_getD, List.getD_eq_getElem?_getD, List.getElem?_drop]
  have h0 := hget 0
  rw [Nat.add_zero] at h0
  rw [State.rxPacket, h0, hget 1, hget 2, hget 3]
  rfl

/-- A run of packets is read where its bytes stand. -/
theorem State.packetsFrom_of_drop {s : State} {f : RxIdx} {off : Nat} {ps : List Packet} {rest : List Byte}
    (h : (s.rxbuf f).drop off = ps.flatMap Packet.bytes ++ rest) : s.packetsFrom f ps.length off = ps := by
  induction ps generalizing off with
  | nil => rfl
  | cons p ps ih =>
    rw [List.flatMap_cons, List.append_assoc] at h
    have hrest : (s.rxbuf f).drop (off + 4) = ps.flatMap Packet.bytes ++ rest := by
      rw [← List.drop_drop, h]
      rfl
    rw [List.length_cons, State.packetsFrom, State.rxPacket_of_drop h, ih hrest]

/-- Short messages are delivered in packet order, and nothing else changes. -/
theorem decodeFrom_short {s : State} (hf : s.fault = none) (f : RxIdx) (k off : Nat)
    (h : ∀ p ∈ s.packetsFrom f k off, (rxRow p.cin p.p1).short = true) :
    decodeFrom f k off s = { s with trace := s.trace ++ (s.packetsFrom f k off).map shortMsg } := by
  induction k generalizing off s with
  | zero => simp [decodeFrom, State.packetsFrom]
  | succ k ih =>
    obtain ⟨hp, hps⟩ := List.forall_mem_cons.mp h
    let p := s.rxPacket f off
    have htail : (s.emit (shortMsg p)).packetsFrom f k (off + 4) = s.packetsFrom f k (off + 4) :=
      (emit_frame s p.cable rfl).packetsFrom f k (off + 4)
    have ht := ih (s := s.emit (shortMsg p)) hf (off + 4) (htail ▸ hps)
    simp only [decodeFrom, packetEffect_short s hp]
    rw [if_neg (by simp [hf]), ht, htail, State.packetsFrom, List.map_cons, List.append_cons]
    rfl

/-- The buffer handed to the decoder starts with the packets that were received. -/
theorem decodeChunk_rearmed_short {s : State} (hf : s.fault = none) {ps : List Packet}
    (h : ∀ p ∈ ps, (rxRow p.cin p.p1).short = true) :
    decodeChunk s.rxActive (4 * ps.length) (rearmed (ps.flatMap Packet.bytes) s) =
      { rearmed (ps.flatMap Packet.bytes) s with
        trace := s.trace ++ .armIn (otherIdx s.rxActive) s.cfg.rxBufSize :: ps.map shortMsg } := by
  have hps : (rearmed (ps.flatMap Packet.bytes) s).packetsFrom s.rxActive ps.length 0 = ps :=
    State.packetsFrom_of_drop (rearmed_rxbuf_active _ s)
  rw [decodeChunk, Nat.mul_div_cancel_left _ (by decide),
    decodeFrom_short ((rearmed_fault _ s).trans hf) _ _ _ (by rwa [hps]), hps, rearmed_trace,
    List.append_assoc, List.singleton_append]

/-- An operation that raises no error and ends without a fault. -/
theorem invoke_pure_done {g : State → State} {s u : State} (hf : s.fault = none) (hg : g s = u)
    (hu : u.fault = none) : invoke (fun s => .ok (g s)) s = .next { u with outcome := .ok } :=
  invoke_done hf (congrArg Except.ok hg) hu

/-- Settles O31: the chunk is accepted, and its packets are decoded as short messages. -/
theorem rxCompleteDeliversShortMessages : Obligations.RxCompleteDeliversShortMessages := by
  intro s ps hf ho harm hl hshort
  have hlen := flatMap_bytes_length ps
  have hf' := (rearmed_fault (ps.flatMap Packet.bytes) s).trans hf
  rw [exec_rxComplete_accepts hf ho harm (by omega) (by omega), hlen]
  refine (invoke_pure_done hf' (decodeChunk_rearmed_short hf hshort) hf').trans ?_
  rw [rearmed_eq, hlen]

/-! ### What an operation does, by the part of the block it is of -/

/-- Every operation that ends is a submission, decoding (which takes in the reassembler's operations), the
return of bytes, or one of the six named. -/
inductive OpEffect (s : State) : Instr → State → Prop
  | submits {i : Instr} {u : State} (f : List Byte) (h : submit f s = .ok u) : OpEffect s i u
  | decodes {i : Instr} {u : State} (P : Cable → Prop) (h : DecodeFrame P s u) : OpEffect s i u
  | returns {i : Instr} (bytes : List Byte) : OpEffect s i (s.giveResult bytes)
  | handover : OpEffect s .handover (handover s)
  | txComplete {st : XferStatus} {u : State} (h : txComplete st s = .ok u) : OpEffect s (.txComplete st) u
  | rxComplete {st : XferStatus} {data : List Byte} {u : State} (h : rxComplete st data s = .ok u) :
      OpEffect s (.rxComplete st data) u
  | portOpen : OpEffect s .portOpen (Machine.portOpen s)
  | portClose : OpEffect s .portClose (Machine.portClose s)
  | reset : OpEffect s .reset (resetBlock s)

theorem sxReset_frame (s : State) : DecodeFrame (fun _ => True) s (sxReset s) :=
  { DecodeFrame.refl _ s with session := fun _ hn => absurd trivial hn }

theorem opOf_effect {i : Instr} {s u : State} (ho : opOf i s = .ok u) : OpEffect s i u := by
  cases i with
  | rxCin0 | rxCin1 | rxCin2 | rxCin3 | rxCin5F6 | rxCin8 | rxCin9 | rxCinA | rxCinB | rxCinC | rxCinD
  | rxCinE | rxCinF =>
    obtain rfl := Except.ok.inj ho
    exact .decodes _ (emit_frame s _ rfl)
  | rxCin4 c b1 b2 b3 | sxAppend c b1 b2 b3 =>
    obtain rfl := Except.ok.inj ho
    exact .decodes _ (sxAppend_frame c b1 b2 b3 s)
  | rxCin5Term c | rxCin6 c | rxCin7 c | sxTerm c =>
    obtain rfl := Except.ok.inj ho
    exact .decodes _ (sxTerm_frame c _ s)
  | decodeChunk f len =>
    obtain rfl := Except.ok.inj ho
    exact .decodes _ (decodeChunk_frame f len s)
  | sxBufreq c need =>
    obtain rfl := Except.ok.inj ho
    exact .decodes _ (sxBufreq_frame c need s)
  | sxReset =>
    obtain rfl := Except.ok.inj ho
    exact .decodes _ (sxReset_frame s)
  | encShortPc | encShortSpp | encShortSc1 | encShortDefault =>
    obtain rfl := classRow_ok ho
    exact .returns _
  | encShort =>
    obtain ⟨pkt, rfl⟩ := encShort_map_ok ho
    exact .returns pkt
  | encSysexCont | encSysexEnd1 | encSysexEnd2 | encSysexEnd3 | encSysex =>
    obtain rfl := Except.ok.inj ho
    exact .returns _
  | write =>
    obtain ⟨-, _, _, -, -, hsub⟩ := write_ok ho
    exact .submits _ hsub
  | sysexWrite => exact .submits _ (sysexWrite_ok ho).2
  | sendRaw c =>
    obtain ⟨-, -, hsub⟩ := sendRaw_ok (c := c) ho
    exact .submits _ hsub
  | submit f => exact .submits f ho
  | handover =>
    obtain rfl := Except.ok.inj ho
    exact .handover
  | txComplete => exact .txComplete ho
  | rxComplete => exact .rxComplete ho
  | portOpen =>
    obtain rfl := Except.ok.inj ho
    exact .portOpen
  | portClose =>
    obtain rfl := Except.ok.inj ho
    exact .portClose
  | reset =>
    obtain rfl := Except.ok.inj ho
    exact .reset

/-! ### The armed buffer (R164) -/

/-- The buffer and length of an `ArmIn`. -/
def Event.armedBuf : Event → Option (RxIdx × Nat)
  | .armIn idx len => some (idx, len)
  | _ => none

/-- The `ArmIn` events of a trace, in order. -/
def armIns (es : List Event) : List (RxIdx × Nat) := es.filterMap Event.armedBuf

@[simp] theorem armIns_append (a b : List Event) : armIns (a ++ b) = armIns a ++ armIns b :=
  List.filterMap_append

theorem mem_armIns {es : List Event} {idx : RxIdx} {len : Nat} (h : .armIn idx len ∈ es) :
    (idx, len) ∈ armIns es := List.mem_filterMap.mpr ⟨_, h, rfl⟩

/-- An event that is no `ArmIn` adds none. -/
theorem armIns_concat {e : Event} (h : e.armedBuf = none) (es : List Event) :
    armIns (es ++ [e]) = armIns es := by
  simp [armIns, h]

theorem armIns_of_eventCable {ev : List Event} (h : ∀ e ∈ ev, ∃ c, eventCable e = some c) :
    armIns ev = [] := by
  refine List.filterMap_eq_nil_iff.mpr fun e he => ?_
  obtain ⟨c, hc⟩ := h e he
  cases e with
  | armIn => cases hc
  | _ => rfl

/-- The operation leaves the port as it is, and the receiving side: no buffer is armed or changes its role. -/
structure RxKept (s t : State) : Prop where
  isOpen : t.isOpen = s.isOpen
  rxActive : t.rxActive = s.rxActive
  rxArmed : t.rxArmed = s.rxArmed
  arms : armIns t.trace = armIns s.trace

theorem DecodeFrame.arms {P : Cable → Prop} {s t : State} (h : DecodeFrame P s t) :
    armIns t.trace = armIns s.trace := by
  obtain ⟨ev, he, hc⟩ := h.trace
  rw [he, armIns_append, armIns_of_eventCable fun e hm => (hc e hm).imp fun _ hk => hk.2, List.append_nil]

namespace RxKept

variable {s t u : State}

theorem refl (s : State) : RxKept s s := ⟨rfl, rfl, rfl, rfl⟩

theorem of_decodeFrame {P : Cable → Prop} (h : DecodeFrame P s t) : RxKept s t :=
  ⟨h.isOpen, h.rxActive, h.rxArmed, h.arms⟩

theorem handover (s : State) : RxKept s (handover s) :=
  ⟨rfl, rfl, rfl, armIns_concat rfl s.trace⟩

theorem submitted (f : List Byte) (s : State) : RxKept s (submitted f s) := by
  rw [submitted_eq]
  split
  · exact ⟨rfl, rfl, rfl, rfl⟩
  · exact { handover (queued f s) with }

theorem submit {f : List Byte} (h : submit f s = .ok u) : RxKept s u := by
  obtain ⟨-, rfl⟩ | ⟨-, -, rfl⟩ := submit_ok h
  · exact refl _
  · exact submitted f s

theorem txComplete {st : XferStatus} (h : txComplete st s = .ok u) : RxKept s u := by
  obtain rfl | ⟨-, -, t, ht, rfl⟩ := txComplete_ok h
  · exact refl _
  · have hst : RxKept s t := by
      obtain ⟨-, rfl⟩ | ⟨-, rfl⟩ := ht
      · exact ⟨rfl, rfl, rfl, rfl⟩
      · exact handover s
    split
    · exact { hst with arms := (armIns_concat rfl t.trace).trans hst.arms }
    · exact hst

theorem portOpen (ho : s.isOpen = true) : RxKept s (portOpen s) := by
  rw [Machine.portOpen, if_pos ho]
  exact refl s

end RxKept

/-- The operations that touch the receiving side. -/
theorem OpEffect.rx_cases {i : Instr} {s u : State} (h : OpEffect s i u) :
    RxKept s u ∨ (i = .portOpen ∧ s.isOpen = false ∧ u = Machine.portOpen s) ∨
      (∃ data, i = .rxComplete .success data ∧ u = rxAccept data s) ∨
      (i = .portClose ∧ u = Machine.portClose s) ∨ (i = .reset ∧ u = resetBlock s) := by
  cases h with
  | submits f h => exact .inl (.submit h)
  | decodes P h => exact .inl (.of_decodeFrame h)
  | returns bytes => exact .inl ⟨rfl, rfl, rfl, rfl⟩
  | handover => exact .inl (.handover s)
  | txComplete h => exact .inl (.txComplete h)
  | @rxComplete st data _ h =>
    obtain rfl | ⟨-, rfl, ⟨-, rfl⟩ | ⟨-, -, rfl⟩⟩ := rxComplete_ok h
    · exact .inl (.refl _)
    · exact .inl ⟨rfl, rfl, rfl, rfl⟩
    · exact .inr (.inr (.inl ⟨data, rfl, rfl⟩))
  | portOpen =>
    cases ho : s.isOpen with
    | true => exact .inl (.portOpen ho)
    | false => exact .inr (.inl ⟨rfl, rfl, rfl⟩)
  | portClose => exact .inr (.inr (.inr (.inl ⟨rfl, rfl⟩)))
  | reset => exact .inr (.inr (.inr (.inr ⟨rfl, rfl⟩)))

theorem portOpen_arms {s : State} (ho : s.isOpen = false) :
    armIns (portOpen s).trace = armIns s.trace ++ [(.buf0, s.cfg.rxBufSize)] := by
  rw [portOpen, if_neg (by simp [ho])]
  exact (armIns_concat rfl _).trans (armIns_append _ _)

theorem rxAccept_frame (data : List Byte) (s : State) :
    ∃ P, DecodeFrame P (rearmed data s) (rxAccept data s) := ⟨_, decodeChunk_frame _ _ _⟩

theorem rxAccept_arms (data : List Byte) (s : State) :
    armIns (rxAccept data s).trace = armIns s.trace ++ [((rxAccept data s).rxActive, s.cfg.rxBufSize)] := by
  obtain ⟨_, hk⟩ := rxAccept_frame data s
  rw [hk.arms, hk.rxActive, rearmed_trace, rearmed_rxActive, armIns_append]
  rfl

theorem portClose_arms (s : State) : armIns (portClose s).trace = armIns s.trace := by
  unfold portClose
  split
  · exact armIns_concat rfl s.trace
  · rfl

/-- The buffer an instruction that ends in `t` may arm. -/
def ArmsAs (i : Instr) (t : State) (idx : RxIdx) : Prop :=
  (i = .portOpen ∧ idx = .buf0) ∨ (∃ data, i = .rxComplete .success data ∧ idx = t.rxActive)

/-- An operation arms nothing, or one whole buffer. -/
theorem OpEffect.arms {i : Instr} {s u : State} (h : OpEffect s i u) :
    ∃ l, armIns u.trace = armIns s.trace ++ l ∧ ∀ a ∈ l, a.2 = s.cfg.rxBufSize ∧ ArmsAs i u a.1 := by
  obtain hk | ⟨rfl, ho, rfl⟩ | ⟨data, rfl, rfl⟩ | ⟨rfl, rfl⟩ | ⟨rfl, rfl⟩ := h.rx_cases
  · exact ⟨[], by simp [hk.arms], by simp⟩
  · exact ⟨_, portOpen_arms ho, by simp [ArmsAs]⟩
  · exact ⟨_, rxAccept_arms data s, by simp [ArmsAs]⟩
  · exact ⟨[], by simp [portClose_arms], by simp⟩
  · exact ⟨[], by simp [resetBlock, sxReset], by simp⟩

theorem delivered_cfg (i : Instr) (s : State) : (delivered i s).cfg = s.cfg := (delivered_traceFrame i s).cfg

theorem exec_arms {i : Instr} {s t : State} (h : exec i s = .next t) :
    ∃ l, armIns t.trace = armIns s.trace ++ l ∧ ∀ a ∈ l, a.2 = s.cfg.rxBufSize ∧ ArmsAs i t a.1 := by
  by_cases hr : i = .reset
  · subst hr
    obtain rfl := Host.Outcome.next.inj ((exec_reset s).symm.trans h)
    exact OpEffect.reset.arms
  · rw [← delivered_trace i s, ← delivered_cfg i s]
    rcases exec_next_cases h hr with ⟨_, -, rfl⟩ | ⟨_, -, -, rfl⟩ | ⟨u, -, ho, rfl⟩
    · exact ⟨[], by simp, by simp⟩
    · exact ⟨[], by simp, by simp⟩
    · exact (opOf_effect ho).arms

/-- Settles O28: the events added hold the `ArmIn`s of the one operation run. -/
theorem armInOnlyFromOpenAndRxComplete : Obligations.ArmInOnlyFromOpenAndRxComplete := by
  intro i s t ev idx len h ht hm
  obtain ⟨l, hl, hall⟩ := exec_arms h
  rw [ht, armIns_append] at hl
  exact hall (idx, len) (List.append_cancel_left hl ▸ mem_armIns hm)

/-! ### The stall (R162; 41_txflow.md R143) -/

theorem rxAccept_isOpen (data : List Byte) (s : State) : (rxAccept data s).isOpen = s.isOpen := by
  obtain ⟨_, hk⟩ := rxAccept_frame data s
  rw [hk.isOpen, rearmed_isOpen]

/-- On an open port, but for the close and the reset, an accepted chunk alone touches the receiving side. -/
theorem OpEffect.rx_cases_open {i : Instr} {s u : State} (h : OpEffect s i u) (ho : s.isOpen = true)
    (hc : i ≠ .portClose) (hr : i ≠ .reset) :
    RxKept s u ∨ ∃ data, i = .rxComplete .success data ∧ u = rxAccept data s := by
  obtain hk | ⟨-, hn, -⟩ | hx | ⟨hi, -⟩ | ⟨hi, -⟩ := h.rx_cases
  · exact .inl hk
  · exact absurd (ho.symm.trans hn) (by decide)
  · exact .inr hx
  · exact absurd hi hc
  · exact absurd hi hr

theorem OpEffect.isOpen {i : Instr} {s u : State} (h : OpEffect s i u) (ho : s.isOpen = true)
    (hc : i ≠ .portClose) (hr : i ≠ .reset) : u.isOpen = true := by
  obtain hk | ⟨data, -, rfl⟩ := h.rx_cases_open ho hc hr
  · exact hk.isOpen.trans ho
  · exact (rxAccept_isOpen data s).trans ho

theorem delivered_isOpen (i : Instr) (s : State) : (delivered i s).isOpen = s.isOpen := by
  cases i <;> rfl

theorem exec_isOpen {i : Instr} {s t : State} (h : exec i s = .next t) (ho : s.isOpen = true)
    (hc : i ≠ .portClose) (hr : i ≠ .reset) : t.isOpen = true := by
  have hd := (delivered_isOpen i s).trans ho
  rcases exec_next_cases h hr with ⟨_, -, rfl⟩ | ⟨_, -, -, rfl⟩ | ⟨u, -, hop, rfl⟩
  · exact hd
  · exact hd
  · exact (opOf_effect hop).isOpen hd hc hr

theorem delivered_rx_unarmed (i : Instr) {s : State} (ha : s.rxArmed = none) :
    (delivered i s).rxArmed = none ∧ (delivered i s).rxActive = s.rxActive := by
  cases i with
  | rxComplete => exact ⟨rfl, rfl⟩
  | _ => exact ⟨ha, rfl⟩

/-- With no buffer armed RX_COMPLETE is refused or no move, and nothing else arms one. -/
theorem exec_rx_stalled {i : Instr} {s t : State} (h : exec i s = .next t) (ho : s.isOpen = true)
    (hc : i ≠ .portClose) (hr : i ≠ .reset) (ha : s.rxArmed = none) :
    t.rxArmed = none ∧ t.rxActive = s.rxActive := by
  have hd := delivered_rx_unarmed i ha
  rcases exec_next_cases h hr with ⟨_, -, rfl⟩ | ⟨_, -, -, rfl⟩ | ⟨u, hf, hop, rfl⟩
  · exact hd
  · exact hd
  · obtain hk | ⟨data, rfl, -⟩ := (opOf_effect hop).rx_cases_open ((delivered_isOpen i s).trans ho) hc hr
    · exact ⟨hk.rxArmed.trans hd.1, hk.rxActive.trans hd.2⟩
    · simpa [ha] using rxArmed_of_rxComplete_next hf ho h

/-- On the sending side the operation only queues bytes. -/
structure OnlyQueues (s t : State) : Prop where
  sending : t.sending = s.sending
  txInflight : t.txInflight = s.txInflight
  txq : ∃ f, t.txq = s.txq ++ f
  bytes : sentBytes t.trace = sentBytes s.trace

namespace OnlyQueues

variable {s t u : State}

theorem of_queueKept (h : QueueKept s t) (hs : t.sending = s.sending) (hi : t.txInflight = s.txInflight) :
    OnlyQueues s t := ⟨hs, hi, ⟨[], by simp [h.txq]⟩, h.bytes⟩

theorem refl (s : State) : OnlyQueues s s := of_queueKept (.refl s) rfl rfl

theorem trans (h : OnlyQueues s t) (k : OnlyQueues t u) : OnlyQueues s u := by
  obtain ⟨f, hf⟩ := h.txq
  obtain ⟨g, hg⟩ := k.txq
  exact ⟨k.sending.trans h.sending, k.txInflight.trans h.txInflight,
    ⟨f ++ g, by rw [hg, hf, List.append_assoc]⟩, k.bytes.trans h.bytes⟩

/-- Recording the outcome touches none of it. -/
theorem withOutcome (h : OnlyQueues s t) (o : OpOutcome) : OnlyQueues s { t with outcome := o } := { h with }

theorem of_decodeFrame {P : Cable → Prop} (h : DecodeFrame P s t) : OnlyQueues s t :=
  of_queueKept (.of_decodeFrame h) h.sending h.txInflight

theorem submit {f : List Byte} (hs : s.sending = true) (h : submit f s = .ok u) : OnlyQueues s u := by
  obtain ⟨-, rfl⟩ | ⟨-, -, rfl⟩ := submit_ok h
  · exact refl _
  · rw [submitted_eq, if_pos hs]
    exact ⟨hs.symm, rfl, ⟨f, rfl⟩, rfl⟩

theorem rxAccept (data : List Byte) (s : State) : OnlyQueues s (rxAccept data s) := by
  obtain ⟨_, hk⟩ := rxAccept_frame data s
  exact of_queueKept (.rxAccept data s) (hk.sending.trans (rearmed_sending data s))
    (hk.txInflight.trans (rearmed_txInflight data s))

theorem rxComplete {st : XferStatus} {data : List Byte} (h : rxComplete st data s = .ok u) :
    OnlyQueues s u := by
  obtain rfl | ⟨-, -, ⟨-, rfl⟩ | ⟨-, -, rfl⟩⟩ := rxComplete_ok h
  · exact refl _
  · exact of_queueKept ⟨rfl, rfl, rfl⟩ rfl rfl
  · exact rxAccept data s

theorem portOpen (ho : s.isOpen = true) : OnlyQueues s (portOpen s) := by
  rw [Machine.portOpen, if_pos ho]
  exact refl s

end OnlyQueues

theorem OpEffect.onlyQueues {i : Instr} {s u : State} (h : OpEffect s i u) (ho : s.isOpen = true)
    (hs : s.sending = true) (hc : i ≠ .portClose) (hr : i ≠ .reset) (hh : i ≠ .handover)
    (ht : ∀ st, i ≠ .txComplete st) : OnlyQueues s u := by
  cases h with
  | submits f h => exact .submit hs h
  | decodes P h => exact .of_decodeFrame h
  | returns bytes => exact .of_queueKept (.giveResult s bytes) rfl rfl
  | rxComplete h => exact .rxComplete h
  | portOpen => exact .portOpen ho
  | handover => exact absurd rfl hh
  | txComplete => exact absurd rfl (ht _)
  | portClose => exact absurd rfl hc
  | reset => exact absurd rfl hr

/-- The delivery of a notification leaves a stalled sending side. -/
theorem delivered_onlyQueues (i : Instr) {s : State} (hi : s.txInflight = none) :
    OnlyQueues s (delivered i s) := by
  refine .of_queueKept (.delivered i s) ?_ ?_
  · cases i <;> rfl
  · cases i with
    | txComplete => exact hi.symm
    | _ => rfl

/-- With `sending` set and nothing in flight TX_COMPLETE is refused or no move, and nothing else sends. -/
theorem exec_tx_stalled {i : Instr} {s t : State} (h : exec i s = .next t) (ho : s.isOpen = true)
    (hc : i ≠ .portClose) (hr : i ≠ .reset) (hs : s.sending = true) (hi : s.txInflight = none)
    (hh : i ≠ .handover) : OnlyQueues s t := by
  have hd := delivered_onlyQueues i hi
  rcases exec_next_cases h hr with ⟨_, -, rfl⟩ | ⟨_, -, -, rfl⟩ | ⟨u, hf, hop, rfl⟩
  · exact hd.withOutcome _
  · exact hd.withOutcome _
  · have ht : ∀ st, i ≠ .txComplete st := by
      rintro st rfl
      have hn : s.txOwed st = false := State.txOwed_eq_false.mpr ⟨hi, fun _ => hs⟩
      exact not_stops_of_next h ⟨hf, .inr (.inr (.inl ⟨st, rfl, ho, hn⟩))⟩
    have hk := (opOf_effect hop).onlyQueues ((delivered_isOpen i s).trans ho) (hd.sending.trans hs) hc hr hh ht
    exact (hd.trans hk).withOutcome _

/-- Settles O60: the port stays open, and each stalled direction stays stalled. -/
theorem stallLastsUntilCloseOrReset : Obligations.StallLastsUntilCloseOrReset := by
  intro i s t ho hc hr h
  refine ⟨exec_isOpen h ho hc hr, exec_rx_stalled h ho hc hr, fun hs hi hh => ?_⟩
  have hk := exec_tx_stalled h ho hc hr hs hi hh
  exact ⟨hk.sending.trans hs, hk.txInflight.trans hi, hk.txq, hk.bytes⟩

end Sys2Proof.Machine
end

section
/-! PROOFS of the family 43_decode.md (O29, O30, O32 to O34): what each packet row decodes from and does, and a
chunk as the run of its packets' rows. -/

namespace Sys2Proof.Machine

/-! ### DECODE_CHUNK as a run of packet rows (R180, R201) -/

/-- A packet row after an operation that returned `o`: decoding does not read what the last one returned. -/
theorem exec_decodePacket_outcome {s : State} (hf : s.fault = none) (p : Packet) (o : OpOutcome) :
    exec (decodePacket p) { s with outcome := o } =
      .next { packetEffect p s with outcome := (packetEffect p s).endOutcome } := by
  have hrun := invoke_pure (g := packetEffect p) (s := { s with outcome := o }) hf
  rw [packetEffect_outcome] at hrun
  exact (exec_decodePacket p _).trans hrun

/-- Running the packets' rows one after another is the chunk loop, and the outcome is that of the state it ends
in. -/
theorem runInOrder_packetsFrom {s : State} (hf : s.fault = none) (f : RxIdx) (k off : Nat) (o : OpOutcome) :
    runInOrder ((s.packetsFrom f k off).map decodePacket) { s with outcome := o } =
      .next { decodeFrom f k off s with outcome := (decodeFrom f k off s).endOutcome } := by
  induction k generalizing off s o with
  | zero => rw [decodeFrom, State.endOutcome_none hf, State.packetsFrom, List.map_nil, runInOrder]
  | succ k ih =>
    let t := packetEffect (s.rxPacket f off) s
    have htail : s.packetsFrom f k (off + 4) = t.packetsFrom f k (off + 4) :=
      ((packetEffect_frame (s.rxPacket f off) s).packetsFrom f k (off + 4)).symm
    simp only [State.packetsFrom, List.map_cons, runInOrder, exec_decodePacket_outcome hf, decodeFrom]
    by_cases ht : t.fault.isSome = true
    · rw [if_pos ht, if_pos ht]
    · rw [if_neg ht, if_neg ht, htail]
      exact ih (by simpa using ht) (off + 4) t.endOutcome

/-- Settles O29: both sides are the chunk loop with the outcome of the state it ends in. -/
theorem decodeChunkRunsPacketsInOrder : Obligations.DecodeChunkRunsPacketsInOrder := by
  intro s f len hf _ hl
  rw [exec_decodeChunk hl, invoke_pure hf]
  exact (runInOrder_packetsFrom hf f (len / 4) 0 s.outcome).symm

/-- Settles O30: the chunk loop over short messages only emits them. -/
theorem shortMessageChunkDelivers : Obligations.ShortMessageChunkDelivers := by
  intro s f k hf hl hshort
  have hchunk : decodeChunk f (4 * k) s = { s with trace := s.trace ++ (s.packetsFrom f k 0).map shortMsg } := by
    rw [decodeChunk, Nat.mul_div_cancel_left k (by decide), decodeFrom_short hf f k 0 hshort]
  rw [exec_decodeChunk hl, invoke_pure_done hf hchunk hf]

/-! ### The packet rows one by one (R181 to R197) -/

/-- A packet with the CIN of a row that takes its first payload byte decodes to that row (R85). -/
theorem decode_packet_of_takes {p : Packet} {r : RxRow} (hcin : p.cin = r.cin) (ht : r.Takes p.p1) :
    decode (.packet p) = r.toInstr p.cable p.p1 p.p2 p.p3 := by
  rw [decode, decodePacket, hcin, ht.rxRow_eq]

/-- A row whose CIN is not 0x5 is selected by the CIN alone. -/
theorem decode_packet_of_cin {p : Packet} (r : RxRow) (h5 : r.cin ≠ 0x5#4 := by decide)
    (hcin : p.cin = r.cin) : decode (.packet p) = r.toInstr p.cable p.p1 p.p2 p.p3 :=
  decode_packet_of_takes hcin ⟨fun hr => absurd (congrArg RxRow.cin hr) h5,
    fun hr => absurd (congrArg RxRow.cin hr) h5⟩

/-- A row that delivers a message appends it to the trace and changes nothing else (R198). -/
theorem runPacket_emitMsg {s : State} (hf : s.fault = none) (c : Cable) (bs : List Byte) :
    runPacket (emitMsg c bs) s = .next { s with trace := s.trace ++ [.msg c bs], outcome := .ok } :=
  invoke_pure_done hf rfl hf

/-- Settles O32: none of these CINs is 0x5, and each of these rows emits its three bytes. -/
theorem threeByteRowsDeliver : Obligations.ThreeByteRowsDeliver := by
  constructor
  · intro p
    exact ⟨decode_packet_of_cin .cin0, decode_packet_of_cin .cin1, decode_packet_of_cin .cin3,
      decode_packet_of_cin .cin8, decode_packet_of_cin .cin9, decode_packet_of_cin .cinA,
      decode_packet_of_cin .cinB, decode_packet_of_cin .cinE⟩
  · intro s c p1 p2 p3 hf
    have hrow := runPacket_emitMsg hf c [p1, p2, p3]
    simp only [List.forall_mem_cons]
    exact ⟨hrow, hrow, hrow, hrow, hrow, hrow, hrow, hrow, fun _ hi => absurd hi List.not_mem_nil⟩

/-- Settles O33: CIN 0x5 takes the first payload byte as well, and each of these rows emits the bytes its rule
names. -/
theorem shorterRowsDeliver : Obligations.ShorterRowsDeliver := by
  constructor
  · intro p
    exact ⟨decode_packet_of_cin .cin2, decode_packet_of_cin .cinC, decode_packet_of_cin .cinD,
      fun hcin hp => decode_packet_of_takes (r := .cin5F6) hcin ⟨fun _ => hp, nofun⟩,
      decode_packet_of_cin .cinF⟩
  · intro s c p1 p2 p3 hf
    have hrow := runPacket_emitMsg hf c [p1, p2]
    simp only [List.forall_mem_cons]
    exact ⟨⟨hrow, hrow, hrow, fun _ hi => absurd hi List.not_mem_nil⟩, runPacket_emitMsg hf c [0xF6#8],
      runPacket_emitMsg hf c [p1]⟩

/-- Settles O34: a row and the reassembler operation are invocations of one and the same step. -/
theorem sysexRowsRunReassembler : Obligations.SysexRowsRunReassembler := by
  constructor
  · intro p
    exact ⟨decode_packet_of_cin .cin4,
      fun hcin hp => decode_packet_of_takes (r := .cin5Term) hcin ⟨nofun, fun _ => hp⟩,
      decode_packet_of_cin .cin6, decode_packet_of_cin .cin7⟩
  · intro s c p1 p2 p3
    exact ⟨rfl, rfl, rfl, rfl⟩

end Sys2Proof.Machine
end

section
/-! PROOFS of the family 44_sysex.md (O35 to O41, O45, O47, O50): what the reassembler's operations do, and a
SysEx message through the encoder and the decoder. -/

namespace Sys2Proof.Machine

/-! ### The operations as invocations (43_decode.md R185 to R189) -/

/-- An operation that raises no error and latches a fault. -/
theorem invoke_pure_fault {g : State → State} {s u : State} {cause : FaultCause} (hf : s.fault = none)
    (hg : g s = u) (hu : u.fault = some cause) :
    invoke (fun s => .ok (g s)) s = .next { u with outcome := .fault cause } := by
  rw [invoke_pure hf, hg, State.endOutcome_some hu]

/-- Both instructions of a start or continue packet run `SX_APPEND` on its three bytes. -/
theorem exec_appendBytes {i : Instr} {c : Cable} {bs : List Byte} (h : appendBytes i = some (c, bs)) (s : State) :
    ∃ b1 b2 b3, bs = [b1, b2, b3] ∧ exec i s = invoke (fun s => .ok (sxAppend c b1 b2 b3 s)) s := by
  cases i with
  | rxCin4 | sxAppend => cases h; exact ⟨_, _, _, rfl, rfl⟩
  | _ => cases h

/-- All instructions of a termination run `SX_TERM` on its bytes. -/
theorem exec_termBytes {i : Instr} {c : Cable} {bs : List Byte} (h : termBytes i = some (c, bs)) (s : State) :
    exec i s = invoke (fun s => .ok (sxTerm c bs s)) s := by
  cases i with
  | rxCin5Term | rxCin6 | rxCin7 | sxTerm => cases h; rfl
  | _ => cases h

theorem exec_sxBufreq (c : Cable) (need : Nat) (s : State) :
    exec (.sxBufreq c need) s = invoke (fun s => .ok (sxBufreq c need s)) s := rfl

theorem exec_sxReset (s : State) : exec .sxReset s = invoke (fun s => .ok (sxReset s)) s := rfl

/-- What lands after the consumer has answered: the answer changes no session. -/
theorem State.landing_dropAnswer_storedAs (s : State) (c : Cable) (x : Nat) (bs : List Byte) :
    StoredAs s c x bs (s.dropAnswer.landing c x bs) :=
  (s.dropAnswer.landing_storedAs c x bs).congr s.session_dropAnswer

/-! ### Start, continue and request (R221, R222, R227) -/

/-- Settles O35: with room the append is one store behind the bytes held. -/
theorem appendStoresBehindBuffer : Obligations.AppendStoresBehindBuffer := by
  intro s i c bs a hf hi hbuf hroom
  obtain ⟨b1, b2, b3, rfl, hexec⟩ := exec_appendBytes hi s
  have hstore := (sxAppend_room (b1 := b1) (b2 := b2) (b3 := b3) hf hbuf hroom).trans (sxStore_some hbuf)
  exact ⟨_, s.landing_storedAs c _ _, hexec.trans (invoke_pure_done hf hstore hf)⟩

/-- Settles O36: the append is a request with a usable answer, then a store at the answer's start. -/
theorem appendRequestsBufferFirst : Obligations.AppendRequestsBufferFirst := by
  intro s i c bs hf hi hask hcap
  obtain ⟨b1, b2, b3, rfl, hexec⟩ := exec_appendBytes hi s
  exact ⟨_, s.landing_dropAnswer_storedAs c _ _,
    hexec.trans (invoke_pure_done hf (sxAppend_request hf hask hcap) ((State.dropAnswer_fault s).trans hf))⟩

/-- Settles O37: the two ways a request goes. -/
theorem bufferRequestInstallsOrFaults : Obligations.BufferRequestInstallsOrFaults := by
  intro s c need hf
  constructor
  · intro hcap
    exact (exec_sxBufreq c need s).trans
      (invoke_pure_done hf (sxBufreq_ok hcap) ((State.dropAnswer_fault s).trans hf))
  · intro hcap
    exact (exec_sxBufreq c need s).trans (invoke_pure_fault hf (sxBufreq_fault hf hcap) rfl)

/-- Settles O38: the append ends with the request that faults. -/
theorem unusableAnswerFaults : Obligations.UnusableAnswerFaults := by
  intro s i c bs hf hi hask hcap
  obtain ⟨b1, b2, b3, rfl, hexec⟩ := exec_appendBytes hi s
  have hfault := (sxAppend_fault (b1 := b1) (b2 := b2) (b3 := b3) hf hask hcap).trans (sxBufreq_fault hf hcap)
  exact hexec.trans (invoke_pure_fault hf hfault rfl)

/-! ### Termination (R223, R224) -/

/-- Settles O39: with room the termination is a store, then the delivery. -/
theorem terminationDeliversMessage : Obligations.TerminationDeliversMessage := by
  intro s i c bs a hf hi hbuf hroom
  have hterm := (sxTerm_room hf hbuf hroom).trans (sxDeliver_sxStore hbuf)
  exact ⟨_, s.landing_storedAs c _ bs, (exec_termBytes hi s).trans (invoke_pure_done hf hterm hf)⟩

/-- `SX_TERM` under `TERM_POLICY = request` with a usable answer (R224). -/
theorem sxTerm_request_ok {c : Cable} {bs : List Byte} {s : State} (hf : s.fault = none)
    (hp : s.cfg.termPolicy = .request) (hn : (s.session c).buf = none ∨ (s.session c).capLeft < bs.length)
    (hc : bs.length ≤ s.nextAnswer.cap) :
    sxTerm c bs s = sxDeliver c (sxStore c bs (sxBufreq c bs.length s)) := by
  rw [sxTerm_policy_request hp hn, if_neg (by rw [sxBufreq_ok hc]; simp [hf])]

/-- `SX_TERM` under `TERM_POLICY = request` with an answer too small (R227). -/
theorem sxTerm_request_fault {c : Cable} {bs : List Byte} {s : State} (hf : s.fault = none)
    (hp : s.cfg.termPolicy = .request) (hn : (s.session c).buf = none ∨ (s.session c).capLeft < bs.length)
    (hc : s.nextAnswer.cap < bs.length) : sxTerm c bs s = sxBufreq c bs.length s := by
  rw [sxTerm_policy_request hp hn, if_pos (by rw [sxBufreq_fault hf hc]; rfl)]

/-- Settles O40: under `fault` the room check alone acts; under `request` it is a request, then the store and
the delivery unless the answer faults. -/
theorem terminationWithoutRoomFollowsPolicy : Obligations.TerminationWithoutRoomFollowsPolicy := by
  intro s i c bs hf hi
  have hexec := exec_termBytes hi s
  refine ⟨fun hp => ⟨fun hbuf => ?_, fun a hbuf hroom => ?_⟩, fun hp hask => ⟨fun hcap => ?_, fun hcap => ?_⟩⟩
  · have hterm := sxTerm_policy_fault hf hp (.inl hbuf) (bs := bs)
    rw [if_pos hbuf] at hterm
    exact hexec.trans (invoke_pure_fault hf hterm rfl)
  · have hterm := sxTerm_policy_fault hf hp (.inr hroom)
    rw [if_neg (by simp [hbuf])] at hterm
    exact hexec.trans (invoke_pure_fault hf hterm rfl)
  · have hterm := (sxTerm_request_ok hf hp hask hcap).trans (sxDeliver_sxStore_sxBufreq hcap)
    exact ⟨_, s.landing_dropAnswer_storedAs c _ bs,
      hexec.trans (invoke_pure_done hf hterm ((State.dropAnswer_fault s).trans hf))⟩
  · have hterm := (sxTerm_request_fault hf hp hask hcap).trans (sxBufreq_fault hf hcap)
    exact hexec.trans (invoke_pure_fault hf hterm rfl)

/-! ### SX_RESET and PORT_CLOSE (R225; 45_port.md R250, R252) -/

/-- Settles O41: the session file is replaced, and nothing else. -/
theorem sxResetEmptiesAllSessions : Obligations.SxResetEmptiesAllSessions := fun s hf =>
  ⟨sxReset s, (exec_sxReset s).trans (invoke_pure_done hf rfl hf), State.session_of_replicate rfl⟩

theorem portClose_of_open {s : State} (ho : s.isOpen = true) :
    portClose s = { s with
      isOpen := false, sending := false, txq := [], sx := Vector.replicate 16 Session.empty
      trace := s.trace ++ [.portClosed] } := if_pos ho

theorem portOpen_of_closed {s : State} (ho : s.isOpen = false) :
    portOpen s = { s with
      isOpen := true, rxActive := .buf0, txInflight := none, rxArmed := some .buf0
      trace := s.trace ++ [.armIn .buf0 s.cfg.rxBufSize, .portOpened] } := by
  simp [portOpen, ho, State.setOpen, State.setRxActive, State.armIn, State.emit]

/-- A close and an open empty every session and leave SX and the consumer's coming answers. -/
theorem exec_portClose_portOpen {s : State} (hf : s.fault = none) (ho : s.isOpen = true) :
    ∃ t u, exec .portClose s = .next t ∧ exec .portOpen t = .next u ∧ u.fault = none ∧
      u.sx = Vector.replicate 16 Session.empty ∧ u.sxmem = s.sxmem ∧ u.nextAnswer = s.nextAnswer ∧
      u.trace = s.trace ++ [.portClosed, .armIn .buf0 s.cfg.rxBufSize, .portOpened] := by
  have hclose := invoke_pure_done hf (portClose_of_open ho) hf
  exact ⟨_, _, hclose, invoke_pure_done hf (portOpen_of_closed rfl) hf, hf, rfl, rfl, rfl,
    List.append_assoc _ _ _⟩

/-- While every session is empty no buffer is lent anywhere. -/
theorem State.aloneAt_of_replicate {s : State} (h : s.sx = Vector.replicate 16 Session.empty) (c : Cable)
    (y : Nat) : s.aloneAt c y := fun d _ => by
  rw [State.session_of_replicate h d]
  exact Session.not_lends_empty y

/-- A start packet while every session is empty: the request hands nothing off, and its own bytes stand at the
start of the answer. -/
theorem exec_rxCin4_fresh {s : State} (hf : s.fault = none) (h : s.sx = Vector.replicate 16 Session.empty)
    (c : Cable) (b1 b2 b3 : Byte) (hc : 3 ≤ s.nextAnswer.cap) :
    ∃ t, exec (.rxCin4 c b1 b2 b3) s = .next t ∧ t.trace = s.trace ++ [.bufReq c none s.nextAnswer] ∧
      t.session c = ⟨some s.nextAnswer.buf, 3, s.nextAnswer.cap - 3⟩ ∧
      t.sxmem = s.sxmem.store s.nextAnswer.buf [b1, b2, b3] := by
  have hbuf : (s.session c).buf = none := by rw [State.session_of_replicate h]; rfl
  obtain ⟨vs, hvs, hexec⟩ := appendRequestsBufferFirst s (.rxCin4 c b1 b2 b3) c _ hf rfl (.inl hbuf) hc
  obtain rfl := hvs.eq fun k _ => State.aloneAt_of_replicate h c _
  refine ⟨_, hexec, ?_, State.session_of_sx_eq s.dropAnswer rfl, rfl⟩
  simp only [hbuf, Option.map_none]

/-- Settles O50: the close empties every session, the open leaves them, and the start packet finds them so. -/
theorem closeAbandonsSysexInProgress : Obligations.CloseAbandonsSysexInProgress := by
  intro s c b1 b2 b3 hf ho hc
  obtain ⟨t, u, hclose, hopen, huf, hsx, hmem, hans, htrace⟩ := exec_portClose_portOpen hf ho
  obtain ⟨v, hstart, hvtrace, hvsession, hvmem⟩ := exec_rxCin4_fresh huf hsx c b1 b2 b3 (hans ▸ hc)
  rw [hans] at hvtrace hvsession hvmem
  refine ⟨t, u, v, hclose, hopen, hstart, ?_, hvsession, hmem ▸ hvmem⟩
  rw [hvtrace, htrace, List.append_assoc]
  rfl

/-! ### Isolation (R228; 43_decode.md R200) -/

/-- Settles O45: refused it changes the outcome alone, else the cables a chunk touches are those of its
packets. -/
theorem chunkLeavesOtherCablesAlone : Obligations.ChunkLeavesOtherCablesAlone := by
  intro s t f len c h hc
  obtain ⟨_, -, rfl⟩ | ⟨_, -, ho, -⟩ | ⟨u, -, ho, rfl⟩ := exec_next_cases h nofun
  · exact ⟨rfl, [], (List.append_nil _).symm, nofun⟩
  · cases ho
  · obtain rfl := Except.ok.inj ho
    have hframe := decodeChunk_frame f len s
    obtain ⟨ev, htrace, hev⟩ := hframe.trace
    refine ⟨hframe.session c fun ⟨p, hp, hpc⟩ => hc p hp hpc, ev, htrace, fun e he hce => ?_⟩
    obtain ⟨d, ⟨p, hp, hpd⟩, hed⟩ := hev e he
    exact hc p hp (hpd.trans (Option.some.inj (hed.symm.trans hce)))

/-! ### What a run of packets stores for one cable (R226) -/

/-- From `s` to `t` cable `c` stored `bs` at `y` upward and emitted `ev`; its session is `v` afterwards, the other
sessions are as before, and no fault is latched. -/
structure SysexRun (c : Cable) (y : Nat) (bs : List Byte) (ev : List Event) (v : Session) (s t : State) :
    Prop where
  fault : t.fault = none
  trace : t.trace = s.trace ++ ev
  session : t.session c = v
  others : ∀ d, d ≠ c → t.session d = s.session d
  mem : ∃ vs, StoredAs s c y bs vs ∧ t.sxmem = s.sxmem.store y vs

/-- Whether cable `c` is alone at an address does not depend on its own session. -/
theorem State.aloneAt_congr {s t : State} {c : Cable} (h : ∀ d, d ≠ c → t.session d = s.session d) (y : Nat) :
    t.aloneAt c y ↔ s.aloneAt c y :=
  forall₂_congr fun d hd => by rw [h d hd]

/-- Bytes stored right behind others. -/
theorem StoredAs.append {s : State} {c : Cable} {y : Nat} {bs bs' vs vs' : List Byte} (h : StoredAs s c y bs vs)
    (h' : StoredAs s c (y + bs.length) bs' vs') : StoredAs s c y (bs ++ bs') (vs ++ vs') := by
  obtain ⟨hlen, hbs⟩ := h
  obtain ⟨hlen', hbs'⟩ := h'
  refine ⟨by rw [List.length_append, List.length_append, hlen, hlen'], fun k hk ha => ?_⟩
  by_cases hlt : k < bs.length
  · rw [List.getElem?_append_left hlt, List.getElem?_append_left (hlen ▸ hlt)]
    exact hbs k hlt ha
  · have hle : bs.length ≤ k := Nat.le_of_not_lt hlt
    rw [List.getElem?_append_right hle, List.getElem?_append_right (hlen ▸ hle), hlen]
    refine hbs' (k - bs.length) (by rw [List.length_append] at hk; omega) ?_
    rwa [Nat.add_assoc, Nat.add_sub_cancel' hle]

namespace SysexRun

variable {c : Cable} {y : Nat} {bs bs' : List Byte} {ev ev' : List Event} {v w : Session} {s t u : State}

theorem trans (h : SysexRun c y bs ev v s t) (k : SysexRun c (y + bs.length) bs' ev' w t u) :
    SysexRun c y (bs ++ bs') (ev ++ ev') w s u := by
  obtain ⟨vs, hvs, hmem⟩ := h.mem
  obtain ⟨vs', ⟨hlen', hvs'⟩, hmem'⟩ := k.mem
  have hvs'' : StoredAs s c (y + bs.length) bs' vs' :=
    ⟨hlen', fun k hk ha => hvs' k hk ((State.aloneAt_congr h.others _).mpr ha)⟩
  have hlen : vs.length = bs.length := hvs.1
  exact
  { fault := k.fault
    trace := by rw [k.trace, h.trace, List.append_assoc]
    session := k.session
    others := fun d hd => (k.others d hd).trans (h.others d hd)
    mem := ⟨vs ++ vs', hvs.append hvs'', by rw [hmem', hmem, Memory.store_append, hlen]⟩ }

/-- The other sessions, when the session file was written at `c` alone. -/
theorem others_of_sx_eq (h : t.sx = (s.setSession c v).sx) (d : Cable) (hd : d ≠ c) :
    t.session d = s.session d :=
  (State.session_congr h d).trans (s.session_setSession_ne v hd)

theorem sxAppend_room {a pos room : Nat} (hf : s.fault = none) (hs : s.session c = ⟨some a, pos, room⟩)
    (hr : 3 ≤ room) (b1 b2 b3 : Byte) :
    SysexRun c (a + pos) [b1, b2, b3] [] ⟨some a, pos + 3, room - 3⟩ s (sxAppend c b1 b2 b3 s) := by
  have hbuf : (s.session c).buf = some a := by rw [hs]
  rw [Machine.sxAppend_room hf hbuf (by rw [hs]; exact hr), sxStore_some hbuf, hs]
  exact
  { fault := hf
    trace := (List.append_nil _).symm
    session := State.session_of_sx_eq s rfl
    others := others_of_sx_eq rfl
    mem := ⟨_, s.landing_storedAs c _ _, rfl⟩ }

theorem sxAppend_fresh (hf : s.fault = none) (hs : (s.session c).buf = none) (hc : 3 ≤ s.nextAnswer.cap)
    (b1 b2 b3 : Byte) :
    SysexRun c s.nextAnswer.buf [b1, b2, b3] [.bufReq c none s.nextAnswer]
      ⟨some s.nextAnswer.buf, 3, s.nextAnswer.cap - 3⟩ s (sxAppend c b1 b2 b3 s) := by
  rw [sxAppend_request hf (.inl hs) hc, hs]
  exact
  { fault := (State.dropAnswer_fault s).trans hf
    trace := rfl
    session := State.session_of_sx_eq s.dropAnswer rfl
    others := fun d hd => (others_of_sx_eq (s := s.dropAnswer) rfl d hd).trans (s.session_dropAnswer d)
    mem := ⟨_, s.landing_dropAnswer_storedAs c _ _, rfl⟩ }

theorem sxTerm_room {a pos room : Nat} (hf : s.fault = none) (hs : s.session c = ⟨some a, pos, room⟩)
    (hr : bs.length ≤ room) :
    SysexRun c (a + pos) bs [.sysExMsg c a (pos + bs.length)] Session.empty s (sxTerm c bs s) := by
  have hbuf : (s.session c).buf = some a := by rw [hs]
  rw [Machine.sxTerm_room hf hbuf (by rw [hs]; exact hr), sxDeliver_sxStore hbuf, hs]
  exact
  { fault := hf
    trace := rfl
    session := State.session_of_sx_eq s rfl
    others := others_of_sx_eq rfl
    mem := ⟨_, s.landing_storedAs c _ _, rfl⟩ }

end SysexRun

/-! ### A SysEx message through the encoder and the decoder (R226; 40_packetizer.md R120 to R124) -/

theorem packetEffect_cont (c : Cable) (g0 g1 g2 : Byte) (s : State) :
    packetEffect ⟨headerByte c 0x4#4, g0, g1, g2⟩ s = sxAppend c g0 g1 g2 s := by
  simp [packetEffect, Packet.cin, Packet.cable, rxRow, rxCin4]

theorem packetEffect_end1 (c : Cable) {g0 : Byte} (hg : g0 ≠ 0xF6#8) (s : State) :
    packetEffect ⟨headerByte c 0x5#4, g0, 0#8, 0#8⟩ s = sxTerm c [g0] s := by
  simp [packetEffect, Packet.cin, Packet.cable, rxRow, rxCin5Term, hg]

theorem packetEffect_end2 (c : Cable) (g0 g1 : Byte) (s : State) :
    packetEffect ⟨headerByte c 0x6#4, g0, g1, 0#8⟩ s = sxTerm c [g0, g1] s := by
  simp [packetEffect, Packet.cin, Packet.cable, rxRow, rxCin6]

theorem packetEffect_end3 (c : Cable) (g0 g1 g2 : Byte) (s : State) :
    packetEffect ⟨headerByte c 0x7#4, g0, g1, g2⟩ s = sxTerm c [g0, g1, g2] s := by
  simp [packetEffect, Packet.cin, Packet.cable, rxRow, rxCin7]

/-- A packet that latches no fault is followed by those behind it in the buffer. -/
theorem decodeFrom_succ_of_drop {s t : State} {f : RxIdx} {off : Nat} {p : Packet} {rest : List Byte}
    (hbuf : (s.rxbuf f).drop off = p.bytes ++ rest) (hp : packetEffect p s = t) (ht : t.fault = none) (k : Nat) :
    decodeFrom f (k + 1) off s = decodeFrom f k (off + 4) t ∧ (t.rxbuf f).drop (off + 4) = rest := by
  subst hp
  constructor
  · simp only [decodeFrom, State.rxPacket_of_drop hbuf, ht, Option.isSome_none, Bool.false_eq_true, if_false]
  · rw [(packetEffect_frame p s).rxbuf f, ← List.drop_drop, hbuf]
    rfl

/-- The last packet of a message stores its group and delivers the buffer. -/
theorem decodeFrom_last {s : State} {f : RxIdx} {off : Nat} {p : Packet} {rest : List Byte} {c : Cable}
    {bs : List Byte} {a pos room : Nat} (hf : s.fault = none) (hbuf : (s.rxbuf f).drop off = p.bytes ++ rest)
    (hp : packetEffect p s = sxTerm c bs s) (hs : s.session c = ⟨some a, pos, room⟩) (hr : bs.length ≤ room)
    (hone : (bs.length + 2) / 3 = 1) :
    SysexRun c (a + pos) bs [.sysExMsg c a (pos + bs.length)] Session.empty s
      (decodeFrom f ((bs.length + 2) / 3) off s) := by
  have hrun := SysexRun.sxTerm_room hf hs hr
  rw [hone, (decodeFrom_succ_of_drop hbuf hp hrun.fault 0).1]
  exact hrun

/-- A continue packet, then what the packets behind it do. -/
theorem decodeFrom_cont {s : State} {f : RxIdx} {off : Nat} {more bytes : List Byte} {c : Cable} {y : Nat}
    {g0 g1 g2 : Byte} {ev ev' : List Event} {v w : Session}
    (hbuf : (s.rxbuf f).drop off = groupCont c g0 g1 g2 ++ more)
    (hrun : SysexRun c y [g0, g1, g2] ev v s (sxAppend c g0 g1 g2 s))
    (htail : ∀ t : State, t.fault = none → (t.rxbuf f).drop (off + 4) = more → t.session c = v →
      SysexRun c (y + 3) bytes ev' w t (decodeFrom f ((bytes.length + 2) / 3) (off + 4) t)) :
    SysexRun c y (g0 :: g1 :: g2 :: bytes) (ev ++ ev') w s
      (decodeFrom f (((g0 :: g1 :: g2 :: bytes).length + 2) / 3) off s) := by
  obtain ⟨hdec, hmore⟩ :=
    decodeFrom_succ_of_drop hbuf (packetEffect_cont c g0 g1 g2 s) hrun.fault ((bytes.length + 2) / 3)
  have hk : ((g0 :: g1 :: g2 :: bytes).length + 2) / 3 = (bytes.length + 2) / 3 + 1 := by
    simp only [List.length_cons]
    omega
  rw [hk, hdec]
  exact hrun.trans (htail _ hrun.fault hmore hrun.session)

/-- That a message's last group is not the single byte 0xF6 does not depend on its first group. -/
theorem getLast?_tail_ne {g0 g1 g2 g3 : Byte} {tail : List Byte}
    (hF6 : (g0 :: g1 :: g2 :: g3 :: tail).length % 3 = 1 →
      (g0 :: g1 :: g2 :: g3 :: tail).getLast? ≠ some 0xF6#8) :
    (g3 :: tail).length % 3 = 1 → (g3 :: tail).getLast? ≠ some 0xF6#8 := fun h =>
  hF6 ((Nat.add_mod_right _ 3).trans h)

/-- A message's packets, read while its cable holds a buffer with room for it, store it behind the bytes held
and deliver the buffer. -/
theorem decodeFrom_frameSysex {c : Cable} {bytes : List Byte} (hne : bytes ≠ [])
    (hF6 : bytes.length % 3 = 1 → bytes.getLast? ≠ some 0xF6#8) {s : State} {f : RxIdx} {off : Nat}
    {rest : List Byte} {a pos room : Nat} (hf : s.fault = none)
    (hbuf : (s.rxbuf f).drop off = frameSysex c bytes ++ rest) (hs : s.session c = ⟨some a, pos, room⟩)
    (hr : bytes.length ≤ room) :
    SysexRun c (a + pos) bytes [.sysExMsg c a (pos + bytes.length)] Session.empty s
      (decodeFrom f ((bytes.length + 2) / 3) off s) := by
  fun_induction frameSysex c bytes generalizing s off pos room with
  | case1 => exact absurd rfl hne
  | case2 g0 => exact decodeFrom_last hf hbuf (packetEffect_end1 c (by simpa using hF6 rfl) s) hs hr (by simp)
  | case3 g0 g1 => exact decodeFrom_last hf hbuf (packetEffect_end2 c g0 g1 s) hs hr (by simp)
  | case4 g0 g1 g2 => exact decodeFrom_last hf hbuf (packetEffect_end3 c g0 g1 g2 s) hs hr (by simp)
  | case5 g0 g1 g2 g3 tail ih =>
    have hlen : (g0 :: g1 :: g2 :: g3 :: tail).length = 3 + (g3 :: tail).length := Nat.add_comm _ 3
    rw [hlen] at hr
    rw [List.append_assoc] at hbuf
    have hrun := SysexRun.sxAppend_room hf hs (by omega) g0 g1 g2
    have hall := decodeFrom_cont hbuf hrun fun t ht hmore hst =>
      ih (by simp) (getLast?_tail_ne hF6) ht hmore hst (by omega)
    rwa [List.nil_append, Nat.add_assoc, ← hlen] at hall

/-- A message of more than one packet, at the start of a chunk and of a session: its first packet asks for a
buffer and stores at its start, the others follow behind it. -/
theorem decodeChunk_frameSysex {c : Cable} {bytes : List Byte} {s : State} {f : RxIdx} {rest : List Byte}
    (hf : s.fault = none) (hs : (s.session c).buf = none) (h4 : 4 ≤ bytes.length)
    (hF6 : bytes.length % 3 = 1 → bytes.getLast? ≠ some 0xF6#8)
    (hbuf : (s.rxbuf f).drop 0 = frameSysex c bytes ++ rest) (hc : bytes.length ≤ s.nextAnswer.cap) :
    SysexRun c s.nextAnswer.buf bytes
      [.bufReq c none s.nextAnswer, .sysExMsg c s.nextAnswer.buf bytes.length] Session.empty s
      (decodeChunk f (frameSysex c bytes).length s) := by
  rw [decodeChunk, frameSysex_length, Nat.mul_div_cancel_left _ (by decide)]
  match bytes, h4 with
  | g0 :: g1 :: g2 :: g3 :: tail, _ =>
    have hlen : (g0 :: g1 :: g2 :: g3 :: tail).length = 3 + (g3 :: tail).length := Nat.add_comm _ 3
    rw [hlen] at hc
    rw [frameSysex, List.append_assoc] at hbuf
    have hrun := SysexRun.sxAppend_fresh hf hs (by omega) g0 g1 g2
    have hall := decodeFrom_cont hbuf hrun fun t ht hmore hst =>
      decodeFrom_frameSysex (by simp) (getLast?_tail_ne hF6) ht hmore hst (by omega)
    rwa [List.singleton_append, ← hlen] at hall

/-- Settles O47: the first packet asks for a buffer and stores at its start, the others follow behind it. -/
theorem sysexRoundTripDeliversBytes : Obligations.SysexRoundTripDeliversBytes := by
  intro s f c bytes hf hs h4 hF6 hl hbuf hc
  have hdrop : (s.rxbuf f).drop 0 = frameSysex c bytes ++ (s.rxbuf f).drop (frameSysex c bytes).length :=
    (List.take_append_drop _ _).symm.trans (congrArg (· ++ _) hbuf)
  have hrun := decodeChunk_frameSysex hf hs h4 hF6 hdrop hc
  obtain ⟨vs, hvs, hmem⟩ := hrun.mem
  have hlen : vs.length = bytes.length := hvs.1
  have hread := Memory.readBytes_store s.sxmem s.nextAnswer.buf vs
  rw [← hmem, hlen] at hread
  exact ⟨_, vs, (exec_decodeChunk hl).trans (invoke_pure_done hf rfl hrun.fault), rfl, hrun.trace, hread, hvs,
    hrun.session, hrun.others⟩

end Sys2Proof.Machine
end

section
/-! PROOFS of the family 45_port.md (O2, O48, O49): RESET from every state, and the two operations that open and
close the port. -/

namespace Sys2Proof.Machine

/-! ### RESET (R254) -/

theorem freeRxBuf_length (s : State) (idx : RxIdx) : (freeRxBuf s idx).length = s.cfg.rxBufSize := by
  simp [freeRxBuf]

/-- Settles O2: RESET branches on nothing, and the RX buffers it draws have the full size; all else is refused
under a latched fault (`refusedWhileFaultLatched`). -/
theorem resetFromAnyState : Obligations.ResetFromAnyState := by
  constructor
  · intro s
    exact ⟨_, _, freeRxBuf_length s .buf0, freeRxBuf_length s .buf1, exec_reset s⟩
  · intro i s cause hr hf
    exact refusedWhileFaultLatched i s cause hf hr

/-! ### PORT_OPEN and PORT_CLOSE (R250 to R253) -/

theorem exec_portOpen (s : State) : exec .portOpen s = invoke (fun s => .ok (portOpen s)) s := rfl

theorem exec_portClose (s : State) : exec .portClose s = invoke (fun s => .ok (portClose s)) s := rfl

/-- An open port is left alone (R251). -/
theorem portOpen_of_open {s : State} (ho : s.isOpen = true) : portOpen s = s := if_pos ho

/-- A closed port is left alone (R253). -/
theorem portClose_of_closed {s : State} (ho : s.isOpen = false) : portClose s = s := if_neg (by simp [ho])

/-- Settles O48: one invocation, refused under a fault, else by whether the port is open. -/
theorem portOpenArmsBufferZero : Obligations.PortOpenArmsBufferZero := by
  intro s
  rw [exec_portOpen]
  refine ⟨fun cause hf => invoke_refused hf, fun hf ho => ?_, fun hf ho => ?_⟩
  · exact invoke_pure_done hf (portOpen_of_closed ho) hf
  · exact invoke_pure_done hf (portOpen_of_open ho) hf

/-- Settles O49: one invocation, refused under a fault, else by whether the port is open. -/
theorem portCloseDiscardsPendingWork : Obligations.PortCloseDiscardsPendingWork := by
  intro s
  rw [exec_portClose]
  refine ⟨fun cause hf => invoke_refused hf, fun hf ho => ?_, fun hf ho => ?_⟩
  · exact invoke_pure_done hf (portClose_of_open ho) hf
  · exact invoke_pure_done hf (portClose_of_closed ho) hf

end Sys2Proof.Machine
end

section
/-! PROOFS of the family 60_exceptions.md (O22, O52): what an operation does while the port is closed, and what an
error leaves as it was. -/

namespace Sys2Proof.Machine

/-! ### Errors (R270) -/

/-- An operation that ends returns Ok or a fault (00_scope.md R7). -/
theorem State.endOutcome_ne_err (s : State) (e : ErrCode) : s.endOutcome ≠ .err e := by
  cases h : s.fault with
  | none => simp [State.endOutcome_none h]
  | some c => simp [State.endOutcome_some h]

/-- Settles O52: `RESET` returns Ok and a refusal a fault, an operation in error adds its outcome alone to the state
in which its notification is delivered, and one that ends returns no error. -/
theorem errorsLeaveStateUnchanged : Obligations.ErrorsLeaveStateUnchanged := by
  intro i s t e h he
  by_cases hr : i = .reset
  · subst hr
    obtain rfl := Host.Outcome.next.inj ((exec_reset s).symm.trans h)
    cases (resetBlock_outcome s).symm.trans he
  · obtain ⟨c, -, rfl⟩ | ⟨e', -, -, rfl⟩ | ⟨u, -, -, rfl⟩ := exec_next_cases h hr
    · cases he
    · cases he
      rfl
    · exact absurd he (u.endOutcome_ne_err e)

/-! ### The closed port (R276) -/

theorem rxComplete_closed {s : State} (st : XferStatus) (data : List Byte) (ho : s.isOpen = false) :
    rxComplete st data s = .ok s := if_pos ho

/-- While the port is closed a notification of any request, held or not, is one invocation. -/
theorem exec_rxComplete_closed {s : State} (st : XferStatus) (data : List Byte) (ho : s.isOpen = false) :
    exec (.rxComplete st data) s = invoke (rxComplete st data) s.rxNotified :=
  if_neg fun ⟨_, hn, _⟩ => Bool.eq_false_iff.mp ho hn

/-- Settles O22: the producer's operations find the port closed, a notification and PORT_CLOSE do nothing, and
PORT_OPEN and RESET are as on any closed port (`portOpenArmsBufferZero`, `resetFromAnyState`). -/
theorem closedPortRefusesOrIgnores : Obligations.ClosedPortRefusesOrIgnores := by
  intro s hf ho
  obtain ⟨-, hopen, -⟩ := portOpenArmsBufferZero s
  obtain ⟨-, -, hclose⟩ := portCloseDiscardsPendingWork s
  refine ⟨fun c bs => ⟨?_, ?_, ?_⟩, fun st data => ⟨?_, ?_⟩, hclose hf ho, hopen hf ho, resetFromAnyState.1 s⟩
  · exact invoke_error hf (write_closed ho)
  · exact invoke_error hf (sysexWrite_closed ho)
  · exact invoke_error hf (sendRaw_closed ho)
  · rw [exec_txComplete fun _ hn => by simp [ho] at hn]
    exact invoke_noop hf (txComplete_closed st ho)
  · rw [exec_rxComplete_closed st data ho]
    exact invoke_noop hf (rxComplete_closed st data ho)

end Sys2Proof.Machine
end
